-- ==== Sys2Proof/Word.lean ====
section
/-! DEFINITION. Bytes, bus words, addresses and the numbers of drives and requesters (00_scope.md, Conventions). -/

namespace Sys2Proof

/-- One byte of DRAM or of a diskette. -/
abbrev Byte := BitVec 8

/-- A 16-bit word of the memory bus; the byte at the lower address is its low byte (00, Conventions). -/
abbrev Word := BitVec 16

/-- A 24-bit byte address as a bus cycle carries it (R1). -/
abbrev Address := BitVec 24

/-- A drive, 0 to 3. -/
abbrev DriveNo := Fin 4

/-- A requester number, 0 to 7; requester 0 is the host (R4). -/
abbrev Requester := Fin 8

/-- The word whose low and high bytes are given. -/
def wordOf (lo hi : Byte) : Word := hi ++ lo

/-- The low byte of a word, which lies at the lower address. -/
def loByte (w : Word) : Byte := w.extractLsb' 0 8

/-- The high byte of a word. -/
def hiByte (w : Word) : Byte := w.extractLsb' 8 8

@[simp] theorem loByte_wordOf (lo hi : Byte) : loByte (wordOf lo hi) = lo := by
  unfold loByte wordOf
  ext i h
  simp only [BitVec.getElem_extractLsb', Nat.zero_add]
  exact (BitVec.getLsbD_append (x := hi) (y := lo)).trans (by simp [h])

@[simp] theorem hiByte_wordOf (lo hi : Byte) : hiByte (wordOf lo hi) = hi := by
  unfold hiByte wordOf
  ext i h
  simp only [BitVec.getElem_extractLsb']
  exact (BitVec.getLsbD_append (x := hi) (y := lo)).trans (by simp [BitVec.getLsbD_eq_getElem h])

end Sys2Proof
end

