-- ==== Sys2Proof/Syntax.lean ====
section
/-! DEFINITION. The commands of the Meltor 4408: one constructor for each row of spec/opcode_table.json. -/

namespace Sys2Proof

/-- The enabled bytes of a bus write: a byte whose enable is clear is absent (R1, R3). -/
structure Lanes where
  /-- The byte at the word address, present when the low-byte enable is set. -/
  lo : Option Byte
  /-- The byte at the word address plus one, present when the high-byte enable is set. -/
  hi : Option Byte
  deriving DecidableEq, Repr

/-- A cycle's direction with its enables and, for a write, its data (R1). -/
inductive BusOp where
  | read (low high : Bool)
  | write (lanes : Lanes)
  deriving DecidableEq, Repr

/-- The levels of the sense lines at an event, bit d for drive d (00, signal summary; R111). -/
structure Pins where
  /-- READY: the spindle is ready. -/
  ready : BitVec 4
  /-- TRACK0: the head is at cylinder 0. -/
  track0 : BitVec 4
  /-- WPROT: the notch reads protected. -/
  wprot : BitVec 4
  deriving DecidableEq, Repr

/-- An ID field as it is recorded on the track (R90). -/
structure IdField where
  /-- Recorded in MFM; otherwise in FM. -/
  mfm : Bool
  cylinder : Byte
  head : Byte
  sectorId : Byte
  sizeCode : Byte
  /-- The recorded CRC. -/
  crc : Word
  deriving DecidableEq, Repr

/-- What follows an ID field on the track (R90, R97). -/
inductive DataMark where
  | data
  | deleted
  | absent
  deriving DecidableEq, Repr

/-- A data field as it is recorded on the track (R90). -/
structure DataField where
  /-- Recorded in MFM; otherwise in FM. -/
  mfm : Bool
  mark : DataMark
  bytes : List Byte
  /-- The recorded CRC. -/
  crc : Word
  deriving DecidableEq, Repr

/-- The word of a Mount Record that a guard field write addresses (R146). -/
inductive GuardWord where
  /-- Guard extent code and guard end, at offset 0Ah. -/
  | extentEnd
  /-- Guard complement (and guard lock), at offset 0Ch. -/
  | complement
  /-- Guard exempt set, at offset 0Eh. -/
  | exempt
  deriving DecidableEq, Repr

/-- A command, one constructor for each row of spec/opcode_table.json. Bus cycles carry their requester number (R4);
a Control Block write carries the bytes its enables let through; a drive-cable event carries the sense-line levels. -/
inductive Instr where
  | noEnableCycle (addr : Address) (data : Option Word) (r : Requester)
  | ordinaryCycle (addr : Address) (op : BusOp) (r : Requester)
  | unpopulatedCycle (addr : Address) (op : BusOp) (r : Requester)
  | apertureRead (addr : Address) (low high : Bool) (r : Requester)
  | apertureWrite (addr : Address) (lanes : Lanes) (r : Requester)
  | mount (d : DriveNo) (cls : Option Byte) (r : Requester)
  | flush (d : DriveNo) (cls : Option Byte) (r : Requester)
  | freeze (d : DriveNo) (cls : Option Byte) (r : Requester)
  | thaw (d : DriveNo) (cls : Option Byte) (r : Requester)
  | release (d : DriveNo) (cls : Option Byte) (r : Requester)
  | reclaim (d : DriveNo) (cls : Option Byte) (r : Requester)
  | discard (d : DriveNo) (cls : Option Byte) (r : Requester)
  | unknownRequest (d : DriveNo) (value : Byte) (cls : Option Byte) (r : Requester)
  | outcomeClear (d : DriveNo) (low high : Bool) (r : Requester)
  | faultRecordClear (f : Fin 5) (low high : Bool) (r : Requester)
  | settingsWrite (pair : Fin 4) (lanes : Lanes) (r : Requester)
  | classTableWrite (pair : Fin 4) (lanes : Lanes) (r : Requester)
  | writeAllowWrite (d : DriveNo) (value : Byte) (retry : Option Byte) (r : Requester)
  | guardFieldWrite (d : DriveNo) (field : GuardWord) (lanes : Lanes) (r : Requester)
  | guardLockWrite (d : DriveNo) (value : Byte) (complement : Option Byte) (r : Requester)
  | controlBlockWrite (wordIndex : Fin 256) (lanes : Lanes) (r : Requester)
  | powerOnReset (straps : BitVec 9) (doors : BitVec 4) (pins : Pins)
  | defaultWritingEnd
  | busReset
  | resetFlushRewriteEnd
  | doorOpen (d : DriveNo) (pins : Pins)
  | doorClose (d : DriveNo) (pins : Pins)
  | indexPulse (d : DriveNo) (pins : Pins)
  | indexWatchExpiry (d : DriveNo) (pins : Pins)
  | spinUpExpiry (d : DriveNo) (pins : Pins)
  | headUnloadExpiry (d : DriveNo)
  | motorIdleExpiry (d : DriveNo)
  | waiterExpiry (r : Requester)
  | promotion (d : DriveNo) (slot : Option Nat)
  | ageWriteBack (slot : Nat)
  | stepComplete (d : DriveNo) (pins : Pins)
  | settleEnd (d : DriveNo) (pins : Pins)
  | idFieldRead (field : IdField) (pins : Pins)
  | fillDataFieldRead (field : DataField) (pins : Pins)
  | writeFieldEnd (pins : Pins)
  | verifyDataFieldRead (field : DataField) (pins : Pins)
  | labelDataFieldRead (field : DataField) (pins : Pins)
  deriving DecidableEq, Repr

end Sys2Proof
end

