-- ==== Sys2Proof/Decode.lean ====
section
/-! DEFINITION. Words that spell commands: the rows of spec/opcode_table.json give no bits, so there are none. -/

namespace Sys2Proof

/-- The command that a word of nbits bits spells by the table's bits. No row of the table gives bits (98_reader.md:
n_rows_with_fields 0), so every word is refused. -/
def decodeTableWord (_nbits _w : Nat) : Option Instr := none

end Sys2Proof
end

