-- ==== Sys2Proof/Config.lean ====
section
/-! DEFINITION. What the board fixes outside the part, and the constants of the manual. -/

namespace Sys2Proof.Config

/-- DESIGN CHOICE, unsafe (log 3). What a byte of DRAM reads as that nothing has written since power was applied. -/
def blankByte : Byte := 0x00#8

/-- DESIGN CHOICE, unsafe (log 1). The strap lines D0 to D8 of State.reset: 1 MiB, 64 slots, 4 drives, Control Block
at 000400h, spin-up 500 ms (the cluster of 01, Classification of sample addresses). -/
def resetStraps : BitVec 9 := 0x07E#9

/-- DESIGN CHOICE, unsafe (log 2). The DOOR levels of State.reset: every door open. -/
def resetDoors : BitVec 4 := 0#4

/-- DESIGN CHOICE, unsafe (log 2). The sense-line levels of State.reset. -/
def resetPins : Pins := { ready := 0#4, track0 := 0#4, wprot := 0#4 }

/-- Bytes of one slot (00, Slot). -/
def slotSize : Nat := 8192

/-- The first address of the aperture (R5). -/
def apertureBase : Nat := 0x800000

/-- The size of a drive window (R11). -/
def windowSize : Nat := 0x200000

/-- Cylinders of a diskette (00, Conventions). -/
def cylinders : Nat := 77

/-- The index watch, in ms (R107). -/
def indexWatchMs : Nat := 500

/-- The most steps a recalibration gives (R94). -/
def recalibrationSteps : Nat := 80

/-- The most recoveries of one pass (R96). -/
def recoveryLimit : Nat := 2

/-- How many consequences one event may have before the model stops following them (log 22). -/
def eventFuel : Nat := 1024

end Sys2Proof.Config
end

