-- ==== Sys2Proof/Machine/State.lean ====
section
/-! DEFINITION. The state of the Meltor 4408 as plain data, and the state right after power-on reset. -/

namespace Sys2Proof.Machine

/-! ### Time -/

/-- A time: milliseconds, and the number of the event, which orders events of one millisecond (log 5). -/
structure Stamp where
  ms : Nat
  seq : Nat
  deriving DecidableEq, Repr

/-! ### Bus Front End -/

/-- The five strap fields as latched (R154). -/
structure Straps where
  dramSize : Fin 4
  slotCount : Fin 4
  driveCount : Fin 4
  base : Fin 4
  spinUp : Bool
  deriving DecidableEq, Repr

/-- The response of a cycle, with the word a read answered DONE carries (R2, R3). -/
inductive Answer where
  | done (data : Option Word)
  | retry
  | fault
  deriving DecidableEq, Repr

/-- Whether Control Block watching runs, or which writing or drain holds it off (R8, R155 to R158). A writing holds the
offset of the next byte it stores (log 6). -/
inductive Phase where
  | defaultWriting (next : Nat)
  | running
  | draining
  | rewriting (next : Nat)
  deriving DecidableEq, Repr

/-- A class of urgency (R74); requesters may besides be BARRED (R150). -/
inductive OpClass where
  | background
  | normal
  | urgent
  deriving DecidableEq, Repr

/-- The key of a track: drive, cylinder, head (R35). -/
structure Key where
  drive : DriveNo
  cylinder : Nat
  head : Nat
  deriving DecidableEq, Repr

/-- The four hold statuses of a Waiter Table entry (R61). -/
inductive Hold where
  | onFill
  | slotWait
  | onActive
  | writeHold
  deriving DecidableEq, Repr

/-- The codes with which a drive operation fails (R83, R109). -/
inductive DriveFailure where
  | notReady
  | seekFault
  | noIndex
  deriving DecidableEq, Repr

/-- The codes with which a wait fails (R60). -/
inductive WaitFailure where
  | drive (f : DriveFailure)
  | volumeLost
  | noVolume
  deriving DecidableEq, Repr

/-- The status of an occupied entry other than RESET_HOLD (R61). -/
inductive WaitStatus where
  | hold (h : Hold)
  | failed (code : WaitFailure)
  | expired (heldAs : Hold)
  deriving DecidableEq, Repr

/-- An occupied entry of the Waiter Table other than RESET_HOLD (R60). -/
structure Waiter where
  key : Key
  sector : Nat
  write : Bool
  cls : OpClass
  start : Stamp
  status : WaitStatus
  exceeded : Bool
  deriving DecidableEq, Repr

/-- An entry of the Waiter Table (R60); a RESET_HOLD entry holds its status alone (R73). -/
inductive WaiterEntry where
  | empty
  | resetHold
  | wait (w : Waiter)
  deriving DecidableEq, Repr

/-! ### Window Translator -/

/-- The effective geometry copy of a drive (R15); S, N, B and V are computed from it (R16). -/
structure Geometry where
  size : Fin 4
  heads : Nat
  interleave : Nat
  skew : Nat
  deriving DecidableEq, Repr

/-! ### Track Directory -/

/-- Slot states (R36). -/
inductive SlotState where
  | free
  | filling
  | resident
  | writing
  | stranded
  deriving DecidableEq, Repr

/-- Sector states (R37). -/
inductive SectorState where
  | absent
  | valid
  | dirty
  | outbound
  | written
  | damaged
  deriving DecidableEq, Repr

/-- A sector entry: its state and its read-report marker (R35). -/
structure Sector where
  state : SectorState
  report : Bool
  deriving DecidableEq, Repr

/-- The reasons for which a WRITE is asked (R143). -/
inductive Reason where
  | age
  | evict
  | flush
  | freeze
  | release
  | reclaim
  | reset
  deriving DecidableEq, Repr

/-- A pending write left on a FILLING slot (R143). -/
structure PendingWrite where
  reason : Reason
  cls : OpClass
  deriving DecidableEq, Repr

/-- A slot entry (R35); its number is its place in State.slots, and its operation link is computed from the queues
(log 20). -/
structure Slot where
  state : SlotState
  key : Option Key
  generation : Byte
  sectors : List Sector
  dirtySince : Option Nat
  writeFailed : Bool
  yields : Nat
  active : Option Nat
  pendingWrite : Option PendingWrite
  deriving DecidableEq, Repr

/-! ### Drive Scheduler -/

/-- What an operation does, with the slot, the slot's generation and the eviction mark where R74 has them. -/
inductive Work where
  | fill (slot : Nat) (generation : Byte)
  | write (slot : Nat) (generation : Byte) (evict : Bool)
  | probe
  deriving DecidableEq, Repr

/-- The phases of an operation (R75); POSITIONED holds the positioned time. -/
inductive OpPhase where
  | queued
  | seeking
  | positioned (at_ : Stamp)
  | transferring
  deriving DecidableEq, Repr

/-- An operation record (R74); its drive is the one whose queue holds it. -/
structure Op where
  work : Work
  /-- The reason with which the request that created a WRITE asked for it (R76, R143); absent for a FILL and a PROBE. -/
  reason : Option Reason
  cylinder : Nat
  head : Nat
  cls : OpClass
  enqueued : Stamp
  promoted : Stamp
  phase : OpPhase
  deriving DecidableEq, Repr

/-! ### Drive Port and Media Monitor -/

/-- The head movement under way for a drive's current operation: the stages of a seek (R82) or of a recovery (R96). -/
inductive Move where
  /-- None. -/
  | idle
  /-- The seek begins when the step under way completes (R93). -/
  | waitStep
  /-- Stage 1: waiting for the spin-up. -/
  | spinUp
  /-- Stage 2: recalibrating, with the steps given so far (R94). -/
  | recalibrating (steps : Nat)
  /-- Stage 3: stepping to the target. -/
  | stepping
  /-- Stage 5: settling until the time given. -/
  | settling (due : Nat)
  deriving DecidableEq, Repr

/-- A step under way: its direction and the end of its interval (R93). -/
structure StepUnderWay where
  inward : Bool
  due : Nat
  deriving DecidableEq, Repr

/-- Media states (R112). -/
inductive Media where
  | noMedia
  | stopped
  | starting
  | running
  | loaded
  deriving DecidableEq, Repr

/-- What the Drive Scheduler, the Drive Port and the Media Monitor hold for one drive. A timer holds the time since
which it has run. -/
structure Drive where
  /-- The operation queue, the current operation included (R76). -/
  queue : List Op
  /-- The head position, absent when unknown (R80). -/
  head : Option Nat
  /-- The sweep direction is inward (R80). -/
  inward : Bool
  move : Move
  /-- The seek has taken a step or loaded the head (R82, stage 5). -/
  moved : Bool
  step : Option StepUnderWay
  /-- The head that SIDE selects (R82). -/
  side : Nat
  /-- The index watch (R107). -/
  watch : Option Nat
  media : Media
  /-- The notch latch reads protected (R113). -/
  notch : Bool
  spinUp : Option Nat
  headUnload : Option Nat
  motorIdle : Option Nat
  /-- The current-operation flag (R112). -/
  current : Bool
  deriving DecidableEq, Repr

/-- The round of a pass (R92), with the sectors seen by a fill (R97), the write list and the sectors written (R100), the
verify list and the bad results (R101), the search revolution (R103), the size code taken (R104). -/
inductive Round where
  | reading (seen : List Nat)
  | writing (todo written : List Nat)
  | verifying (todo bad : List Nat)
  | searching (revolution : Nat)
  | label (size : Fin 4)
  deriving DecidableEq, Repr

/-- What a pass works on: a slot's track with its ID list and size code, or a diskette to identify with the size code
asked for, absent for AUTO (R92). -/
inductive Target where
  | track (slot : Nat) (key : Key) (generation : Byte) (ids : List Nat) (size : Fin 4) (verify : Bool)
  | diskette (asked : Option (Fin 4))
  deriving DecidableEq, Repr

/-- The channel pass record (R92). -/
structure Pass where
  drive : DriveNo
  cylinder : Nat
  head : Nat
  target : Target
  retry : Nat
  round : Round
  /-- Index pulses seen in the present round. -/
  pulses : Nat
  /-- Recalibrations made in this pass. -/
  recals : Nat
  /-- Rewrites made in this pass. -/
  rewrites : Nat
  recovering : Bool
  /-- The logical position whose data field is to be read next, after its matching ID field (R97, R101, R104). -/
  awaited : Option Nat
  deriving DecidableEq, Repr

/-- A data field put on the write data line (R90, R100). -/
structure FieldOut where
  drive : DriveNo
  cylinder : Nat
  head : Nat
  sectorId : Nat
  field : DataField
  deriving DecidableEq, Repr

/-! ### Mount Controller -/

/-- Volume states (R126). -/
inductive VolumeState where
  | unmounted
  | mounting
  | mounted
  | flushing
  | freezing
  | frozen
  | releasing
  | lost
  | reclaiming
  deriving DecidableEq, Repr

/-- Outcome codes (R128, R146). -/
inductive ReqOutcome where
  | none
  | done
  | doneNoStamp
  | writeFailed
  | busy
  | noVolume
  | alreadyMounted
  | strandedData
  | notLost
  | stampUnknown
  | stampMismatch
  | notReady
  | seekFault
  | noIndex
  | noFormat
  | geometryMismatch
  | mediaRemoved
  | unknownRequest
  | driveAbsent
  deriving DecidableEq, Repr

/-- The requests of a Mount Record that may be in progress (R123). -/
inductive RequestKind where
  | mount
  | flush
  | freeze
  | release
  | reclaim
  deriving DecidableEq, Repr

/-- A request in progress: its class (R127), and whether a RELEASE is in its phase 2 (R133). -/
structure Progress where
  kind : RequestKind
  cls : OpClass
  phase2 : Bool
  deriving DecidableEq, Repr

/-- A member of a flush set, marked when a pass of it was under way at the formation (R144). -/
structure FlushMember where
  slot : Nat
  underWay : Bool
  deriving DecidableEq, Repr

/-- The seven fields that a MOUNT latches (R125); the size code is absent for AUTO. -/
structure Latched where
  double : Bool
  sizeCode : Option (Fin 4)
  interleave : Byte
  skew : Byte
  stepRate : Fin 4
  verify : Bool
  retry : Byte
  deriving DecidableEq, Repr

/-- The host-owned fields of a Mount Record besides the request, which always reads NONE (R123, R127). -/
structure HostFields where
  requestClass : Byte
  /-- Sides, size code, interleave, skew, step-rate code, verify and read retry limit as last written. -/
  volume : Latched
  writeAllow : Bool
  guardExtent : Fin 8
  guardHigh : Bool
  guardComplement : Bool
  guardLock : Bool
  guardExempt : Byte
  deriving DecidableEq, Repr

/-- A Mount Record with the Mount Controller's own state for the drive (R123, R124). The media state, the head cylinder
and the counts are stored from their owners (log 20). -/
structure MountRecord where
  host : HostFields
  state : VolumeState
  outcome : ReqOutcome
  effSize : Fin 4
  effInterleave : Nat
  effSkew : Nat
  stamp : Option Word
  generation : Byte
  latched : Latched
  progress : Option Progress
  flushSet : List FlushMember
  flushFailed : Bool
  pendingDiscard : Bool
  deriving DecidableEq, Repr

/-! ### Control Block Interface -/

/-- Fault codes (R146). -/
inductive FaultCode where
  | none
  | barred
  | noVolume
  | beyondVolume
  | writeDropped
  | waitExceeded
  | volumeLost
  | readDamaged
  | notReady
  | seekFault
  | noIndex
  | notFound
  | dataCrc
  | writeProtected
  | verifyFailed
  | slotStarved
  | unpopulated
  deriving DecidableEq, Repr

/-- A Fault Record; its drive field is fixed by its place (R152). -/
structure FaultRecord where
  code : FaultCode
  requester : Option Requester
  cylinder : Option Nat
  head : Option Nat
  sectorId : Option Nat
  count : Byte
  deriving DecidableEq, Repr

/-- The eight Settings (R149). -/
structure Settings where
  writeBackDelay : Byte
  waiterLimit : Byte
  timeoutAction : Byte
  promotionInterval : Byte
  motorIdle : Byte
  headUnload : Byte
  settle : Byte
  yieldLimit : Byte
  deriving DecidableEq, Repr

/-! ### The state -/

/-- Everything the manual gives the part, with the queue of waiting commands, the clock and the levels of the part's
input lines. -/
structure State where
  /-- The commands that wait, the first to be taken first. -/
  pending : List Instr
  /-- The present time (log 4, log 5). -/
  now : Stamp
  pins : Pins
  /-- DOOR, bit d set while drive d's door is closed. -/
  doors : BitVec 4
  /-- The answer of the last bus cycle (log 23). -/
  answer : Option Answer
  straps : Straps
  /-- DRAM: the bytes that differ from Config.blankByte, by rising address (log 3). -/
  mem : List Host.Cell
  phase : Phase
  waiters : Vector WaiterEntry 8
  geometry : Vector (Option Geometry) 4
  slots : List Slot
  freeList : List Nat
  /-- Most recently used first (R47). -/
  recency : List Nat
  drives : Vector Drive 4
  pass : Option Pass
  probeBuffer : List Byte
  fieldOut : Option FieldOut
  records : Vector MountRecord 4
  /-- Drive records 0 to 3 and, at 4, the global record (R152). -/
  faults : Vector FaultRecord 5
  settings : Settings
  classes : Vector Byte 8
  layoutVersion : Word
  deriving DecidableEq, Repr

/-- Why a step of this machine may stop with a fault: it never does, since every command of the manual ends in a next
state. Nothing raises it; safe. -/
inductive Fault where
  /-- Raised by nobody; safe. -/
  | impossible
  deriving DecidableEq, Repr

/-- Why a command may have no meaning. -/
inductive Refusal where
  /-- A command the model gives no meaning: raised by an arm of exec that is not written yet; safe. -/
  | notModelled (mnemonic : String)
  deriving DecidableEq, Repr

/-! ### Values at power-on reset -/

/-- The straps that data lines D0 to D8 give (R154). -/
def Straps.ofLines (l : BitVec 9) : Straps where
  dramSize := (l.extractLsb' 0 2).toFin
  slotCount := (l.extractLsb' 2 2).toFin
  driveCount := (l.extractLsb' 4 2).toFin
  base := (l.extractLsb' 6 2).toFin
  spinUp := l.getLsbD 8

/-- DRAM size in KiB (R154). -/
def Straps.dramKiB (p : Straps) : Nat := 256 * 2 ^ p.dramSize.val

/-- The most slots a DRAM size allows (R154). -/
def Straps.maxSlots (p : Straps) : Nat :=
  match p.dramSize with
  | 0 => 16
  | 1 => 32
  | _ => 64

/-- The slot count in force: the smaller of the strapped count and the maximum (R154). -/
def Straps.slots (p : Straps) : Nat := min (16 * (p.slotCount.val + 1)) p.maxSlots

/-- The strapped drive count, 1 to 4 (R154). -/
def Straps.drives (p : Straps) : Nat := p.driveCount.val + 1

/-- The Control Block base (R154). -/
def Straps.cbBase (p : Straps) : Nat := 0x200 * 2 ^ p.base.val

/-- The spin-up time in ms (R154). -/
def Straps.spinUpMs (p : Straps) : Nat := if p.spinUp then 1000 else 500

/-- The pool base: DRAM size less the slot count times 8192 (R5). -/
def Straps.poolBase (p : Straps) : Nat := p.dramKiB * 1024 - p.slots * Config.slotSize

/-- A FREE slot entry at power-on reset (R35). -/
def Slot.blank : Slot where
  state := .free
  key := none
  generation := 0
  sectors := []
  dirtySince := none
  writeFailed := false
  yields := 0
  active := none
  pendingWrite := none

/-- The media state a drive takes at power-on reset from its DOOR line; a drive that is not strapped is not sensed
(R111, R112). -/
def Media.ofDoor (sensed closed : Bool) : Media := if sensed && closed then .stopped else .noMedia

/-- A drive at power-on reset (R76, R80, R92, R112). -/
def Drive.initial (sensed closed wprot : Bool) : Drive where
  queue := []
  head := none
  inward := true
  move := .idle
  moved := false
  step := none
  side := 0
  watch := none
  media := Media.ofDoor sensed closed
  notch := sensed && closed && wprot
  spinUp := none
  headUnload := none
  motorIdle := none
  current := false

/-- The volume fields at power-on reset (R123): double, AUTO, 1, 0, 3, on, 3. -/
def Latched.initial : Latched where
  double := true
  sizeCode := none
  interleave := 1
  skew := 0
  stepRate := 3
  verify := true
  retry := 3

/-- The host-owned fields at power-on reset (R123). -/
def HostFields.initial : HostFields where
  requestClass := 2
  volume := Latched.initial
  writeAllow := false
  guardExtent := 0
  guardHigh := false
  guardComplement := false
  guardLock := false
  guardExempt := 1

/-- A Mount Record at power-on reset (R123, R124). -/
def MountRecord.initial : MountRecord where
  host := HostFields.initial
  state := .unmounted
  outcome := .none
  effSize := 0
  effInterleave := 1
  effSkew := 0
  stamp := none
  generation := 0
  latched := Latched.initial
  progress := none
  flushSet := []
  flushFailed := false
  pendingDiscard := false

/-- An empty Fault Record (R152). -/
def FaultRecord.empty : FaultRecord where
  code := .none
  requester := none
  cylinder := none
  head := none
  sectorId := none
  count := 0

/-- The Settings' defaults (R149). -/
def Settings.initial : Settings where
  writeBackDelay := 5
  waiterLimit := 30
  timeoutAction := 1
  promotionInterval := 20
  motorIdle := 30
  headUnload := 50
  settle := 20
  yieldLimit := 3

/-- The state that power-on reset leaves (R154, R155): the straps latched, every block in its starting state, the
default writing begun. DRAM, the queue of commands and the clock are handed over. -/
def State.initial (lines : BitVec 9) (doors : BitVec 4) (pins : Pins) (mem : List Host.Cell) (now : Stamp)
    (pending : List Instr) : State where
  pending := pending
  now := now
  pins := pins
  doors := doors
  answer := none
  straps := Straps.ofLines lines
  mem := mem
  phase := .defaultWriting 2
  waiters := Vector.replicate 8 .empty
  geometry := Vector.replicate 4 none
  slots := List.replicate (Straps.ofLines lines).slots Slot.blank
  freeList := List.range (Straps.ofLines lines).slots
  recency := []
  drives := #v[
    Drive.initial true (doors.getLsbD 0) (pins.wprot.getLsbD 0),
    Drive.initial (decide (1 < (Straps.ofLines lines).drives)) (doors.getLsbD 1) (pins.wprot.getLsbD 1),
    Drive.initial (decide (2 < (Straps.ofLines lines).drives)) (doors.getLsbD 2) (pins.wprot.getLsbD 2),
    Drive.initial (decide (3 < (Straps.ofLines lines).drives)) (doors.getLsbD 3) (pins.wprot.getLsbD 3)]
  pass := none
  probeBuffer := List.replicate 1024 0
  fieldOut := none
  records := Vector.replicate 4 MountRecord.initial
  faults := Vector.replicate 5 FaultRecord.empty
  settings := Settings.initial
  classes := Vector.replicate 8 2
  layoutVersion := 0

/-- The machine right after power-on reset, with nothing listed in DRAM: the layout version word has been stored as 0,
which is what an unlisted byte reads as. -/
def State.reset : State :=
  State.initial Config.resetStraps Config.resetDoors Config.resetPins [] { ms := 0, seq := 0 } []

end Sys2Proof.Machine
end

