-- ==== Sys2Proof/WellFormed.lean ====
section
/-! DEFINITION. Which commands are well formed: the operands a row of the table can carry, whatever the state. -/

namespace Sys2Proof

/-- At least one byte enable is set. -/
def Lanes.enabled (l : Lanes) : Bool := l.lo.isSome || l.hi.isSome

/-- At least one byte enable is set (R1: a cycle with neither is not classified). -/
def BusOp.enabled : BusOp → Bool
  | .read low high => low || high
  | .write lanes => lanes.enabled

/-- The word address of a cycle: its address with the lowest bit taken as 0 (R1). -/
def wordAddress (a : Address) : Nat := a.toNat / 2 * 2

/-- A data field holds a whole sector of one of the four sizes (R16, R90). -/
def DataField.wellFormed (f : DataField) : Bool :=
  f.mark != .data || f.bytes.length == 128 || f.bytes.length == 256 || f.bytes.length == 512 || f.bytes.length == 1024

/-- The bytes that a guard field write must enable (R146). -/
def GuardWord.covered (g : GuardWord) (l : Lanes) : Bool :=
  match g with
  | .extentEnd => l.enabled
  | .complement => l.lo.isSome && l.hi.isNone
  | .exempt => l.lo.isSome

/-- The operands fit the row: the class of a cycle's address as far as no strap enters it (R6), its enables (R1), the
request value (R127), the length of a data field (R90), the slot numbers (R35). -/
def Instr.wellFormed : Instr → Bool
  | .noEnableCycle _ _ _ => true
  | .ordinaryCycle a op _ => op.enabled && decide (wordAddress a < Config.apertureBase)
  | .unpopulatedCycle a op _ => op.enabled && decide (wordAddress a < Config.apertureBase)
  | .apertureRead a low high _ => (low || high) && decide (Config.apertureBase ≤ wordAddress a)
  | .apertureWrite a lanes _ => lanes.enabled && decide (Config.apertureBase ≤ wordAddress a)
  | .mount _ _ _ => true
  | .flush _ _ _ => true
  | .freeze _ _ _ => true
  | .thaw _ _ _ => true
  | .release _ _ _ => true
  | .reclaim _ _ _ => true
  | .discard _ _ _ => true
  | .unknownRequest _ v _ _ => decide (8 ≤ v.toNat)
  | .outcomeClear _ low high _ => low || high
  | .faultRecordClear _ low high _ => low || high
  | .settingsWrite _ lanes _ => lanes.enabled
  | .classTableWrite _ lanes _ => lanes.enabled
  | .writeAllowWrite _ _ _ _ => true
  | .guardFieldWrite _ g lanes _ => g.covered lanes
  | .guardLockWrite _ _ _ _ => true
  | .controlBlockWrite _ lanes _ => lanes.enabled
  | .powerOnReset _ _ _ => true
  | .defaultWritingEnd => true
  | .busReset => true
  | .resetFlushRewriteEnd => true
  | .doorOpen _ _ => true
  | .doorClose _ _ => true
  | .indexPulse _ _ => true
  | .indexWatchExpiry _ _ => true
  | .spinUpExpiry _ _ => true
  | .headUnloadExpiry _ => true
  | .motorIdleExpiry _ => true
  | .waiterExpiry _ => true
  | .promotion _ slot => slot.all (fun k => decide (k < 64))
  | .ageWriteBack k => decide (k < 64)
  | .stepComplete _ _ => true
  | .settleEnd _ _ => true
  | .idFieldRead _ _ => true
  | .fillDataFieldRead f _ => f.wellFormed
  | .writeFieldEnd _ => true
  | .verifyDataFieldRead f _ => f.wellFormed
  | .labelDataFieldRead f _ => f.wellFormed

end Sys2Proof
end

