-- ==== Sys2Proof/Machine/Geometry.lean ====
section
/-! DEFINITION. Window Translation's arithmetic: sizes, decomposition, sector IDs, the interleave clamp, the guard. -/

namespace Sys2Proof.Machine

/-- S, the sector size of a size code (R16). -/
def sectorSize (c : Fin 4) : Nat := 128 * 2 ^ c.val

/-- N, the sectors per track of a size code (R16). -/
def sectorsPerTrack (c : Fin 4) : Nat :=
  match c with
  | 0 => 26
  | 1 => 26
  | 2 => 15
  | 3 => 8

/-- Whether a size code is recorded in MFM; code 0 is FM (R16). -/
def recordedMfm (c : Fin 4) : Bool := decide (c ≠ 0)

/-- B, the track size of a size code (R16). -/
def trackSize (c : Fin 4) : Nat := sectorsPerTrack c * sectorSize c

/-- V, the volume size (R16). -/
def Geometry.volumeSize (g : Geometry) : Nat := Config.cylinders * g.heads * trackSize g.size

/-- The effective interleave of a host interleave (R23). -/
def effectiveInterleave (c : Fin 4) (host : Nat) : Nat :=
  let i := host % sectorsPerTrack c
  if i = 0 then 1 else if Nat.gcd i (sectorsPerTrack c) = 1 then i else 1

/-- The effective skew of a host skew (R23). -/
def effectiveSkew (c : Fin 4) (host : Nat) : Nat := host % sectorsPerTrack c

/-- The physical sector ID of logical position p on cylinder c (R21). -/
def Geometry.sectorId (g : Geometry) (c p : Nat) : Nat :=
  (p * g.interleave + c * g.skew) % sectorsPerTrack g.size + 1

/-- The ID list of a cylinder, in logical order (R22). -/
def Geometry.idList (g : Geometry) (c : Nat) : List Nat :=
  (List.range (sectorsPerTrack g.size)).map (g.sectorId c)

/-- The logical position whose ID is given (R22). -/
def positionOf (ids : List Nat) (id : Nat) : Option Nat := ids.findIdx? (· == id)

/-- The place on a diskette that an access names (R19), with its physical sector ID (R21). -/
structure Place where
  cylinder : Nat
  head : Nat
  offset : Nat
  sector : Nat
  sectorId : Nat
  deriving DecidableEq, Repr

/-- The decomposition of a volume offset (R19). -/
def Geometry.place (g : Geometry) (v : Nat) : Place :=
  let t := v / trackSize g.size
  let w := v % trackSize g.size
  let p := w / sectorSize g.size
  { cylinder := t / g.heads, head := t % g.heads, offset := w, sector := p, sectorId := g.sectorId (t / g.heads) p }

/-- The drive whose window an aperture word address falls in (R11, R17). -/
def windowDrive (wordAddr : Nat) : DriveNo := Fin.ofNat 4 ((wordAddr - Config.apertureBase) / Config.windowSize)

/-- The address of the lowest byte a cycle moves (R1). -/
def cycleAddress (wordAddr : Nat) (low : Bool) : Nat := if low then wordAddr else wordAddr + 1

/-- The volume offset of an aperture address (R17). -/
def volumeOffset (a : Nat) : Nat := (a - Config.apertureBase) % Config.windowSize

/-- The number of cylinders of a guard extent code (R31). -/
def guardedCylinders (c : Fin 8) : Nat :=
  match c with
  | 0 => 0
  | 1 => 1
  | 2 => 2
  | 3 => 4
  | 4 => 8
  | 5 => 16
  | 6 => 38
  | 7 => 77

/-- Whether a cylinder lies in the guard (R31). -/
def HostFields.guards (h : HostFields) (c : Nat) : Bool :=
  let n := guardedCylinders h.guardExtent
  let inside := if h.guardHigh then decide (Config.cylinders - n ≤ c) else decide (c < n)
  inside != h.guardComplement

/-- The classes of the address map (R6). -/
inductive CycleClass where
  | ordinary
  | controlBlock
  | unpopulated
  | aperture
  deriving DecidableEq, Repr

/-- The class of a cycle by its word address (R6). -/
def Straps.classify (p : Straps) (wordAddr : Nat) : CycleClass :=
  if Config.apertureBase ≤ wordAddr then .aperture
  else if p.poolBase ≤ wordAddr then .unpopulated
  else if p.cbBase ≤ wordAddr ∧ wordAddr < p.cbBase + 512 then .controlBlock
  else .ordinary

end Sys2Proof.Machine
end

