-- ==== Sys2Proof/Machine/Memory.lean ====
section
/-! DEFINITION. DRAM as a list of cells in one canonical form: reading bytes, storing a run of bytes. -/

namespace Sys2Proof.Machine

/-- The canonical form: addresses strictly rising, and no cell equal to what an unlisted address reads as. -/
abbrev Memory.wf (m : List Host.Cell) : Prop :=
  m.Pairwise (fun c e => c.1 < e.1) ∧ ∀ c ∈ m, c.2 ≠ Config.blankByte

/-- The byte of DRAM at an address. -/
def Memory.read (m : List Host.Cell) (a : Nat) : Byte := (m.lookup a).getD Config.blankByte

/-- The word whose low byte lies at an address (00, Conventions). -/
def Memory.readWord (m : List Host.Cell) (a : Nat) : Word := wordOf (Memory.read m a) (Memory.read m (a + 1))

/-- The n bytes from an address on. -/
def Memory.readRun (m : List Host.Cell) (a n : Nat) : List Byte :=
  (List.range n).map (fun i => Memory.read m (a + i))

/-- The cells that hold a run of bytes, without those that read as an unlisted address does. -/
def Memory.cells : Nat → List Byte → List Host.Cell
  | _, [] => []
  | a, b :: bs => if b = Config.blankByte then Memory.cells (a + 1) bs else (a, b) :: Memory.cells (a + 1) bs

/-- DRAM with a run of bytes stored from an address on. -/
def Memory.store (m : List Host.Cell) (a : Nat) (bs : List Byte) : List Host.Cell :=
  m.filter (fun c => decide (c.1 < a)) ++ Memory.cells a bs ++ m.filter (fun c => decide (a + bs.length ≤ c.1))

/-- DRAM with the enabled bytes of a write stored at a word address (R3). -/
def Memory.storeLanes (m : List Host.Cell) (a : Nat) (l : Lanes) : List Host.Cell :=
  let m1 := match l.lo with
    | some b => Memory.store m a [b]
    | none => m
  match l.hi with
  | some b => Memory.store m1 (a + 1) [b]
  | none => m1

end Sys2Proof.Machine
end

