-- ==== Sys2Proof/Machine/Ops.lean ====
section
/-! DEFINITION. The named operations over the state: reading and updating each block's tables, fault reports, outcomes,
volume states, waiters, slots and counts. -/

namespace Sys2Proof.Machine

/-! ### Tables -/

/-- A table with one entry changed. -/
def upd {α : Type} {n : Nat} (v : Vector α n) (i : Fin n) (f : α → α) : Vector α n := v.set i.val (f v[i]) i.isLt

/-- A table with every entry changed. -/
def updAll {α : Type} {n : Nat} (v : Vector α n) (f : α → α) : Vector α n := ⟨⟨v.toList.map f⟩, by simp⟩

def State.updDrive (s : State) (d : DriveNo) (f : Drive → Drive) : State := { s with drives := upd s.drives d f }

def State.updRecord (s : State) (d : DriveNo) (f : MountRecord → MountRecord) : State :=
  { s with records := upd s.records d f }

def State.updSlot (s : State) (k : Nat) (f : Slot → Slot) : State := { s with slots := s.slots.modify k f }

def State.setWaiter (s : State) (r : Requester) (e : WaiterEntry) : State :=
  { s with waiters := upd s.waiters r (fun _ => e) }

def State.slot (s : State) (k : Nat) : Slot := s.slots.getD k Slot.blank

/-- The clock brought forward to a time in ms, never back (log 4). -/
def State.advance (s : State) (ms : Nat) : State := { s with now := { s.now with ms := max s.now.ms ms } }

/-- The levels that a command carries, on the sense lines (log 2). -/
def State.sense (s : State) (p : Pins) : State := { s with pins := p }

def State.answered (s : State) (a : Answer) : State := { s with answer := some a }

/-- The answer to a cycle that is DONE: a read carries a word, a write carries none (R2). -/
def doneAnswer (write : Bool) (w : Word) : Answer := .done (if write then none else some w)

/-! ### Classes -/

def OpClass.rank : OpClass → Nat
  | .background => 1
  | .normal => 2
  | .urgent => 3

/-- The higher of two classes (R77). -/
def OpClass.max (a b : OpClass) : OpClass := if a.rank < b.rank then b else a

/-- One step up (R79). -/
def OpClass.up : OpClass → OpClass
  | .background => .normal
  | .normal => .urgent
  | .urgent => .urgent

/-- The class that the low two bits of a byte give; absent for BARRED (R150). -/
def classOfByte (b : Byte) : Option OpClass :=
  if b.extractLsb' 0 2 = 0#2 then none
  else if b.extractLsb' 0 2 = 1#2 then some .background
  else if b.extractLsb' 0 2 = 2#2 then some .normal
  else some .urgent

/-- The class of a request: BARRED is taken as BACKGROUND (R127). -/
def requestClassOf (b : Byte) : OpClass := (classOfByte b).getD .background

/-- Watching runs (R8). -/
def State.watching (s : State) : Bool := decide (s.phase = .running)

/-! ### Fault Records -/

/-- A fault report: its code and the parts it carries (R34, R109, R152). -/
structure Report where
  code : FaultCode
  requester : Option Requester
  cylinder : Option Nat
  head : Option Nat
  sectorId : Option Nat
  deriving DecidableEq, Repr

/-- A report reaching a Fault Record: captured when it is empty, counted otherwise, saturating at 255 (R152). -/
def FaultRecord.take (f : FaultRecord) (r : Report) : FaultRecord :=
  if f.code = .none then
    { code := r.code, requester := r.requester, cylinder := r.cylinder, head := r.head, sectorId := r.sectorId, count := 0 }
  else { f with count := if f.count = 255#8 then 255#8 else f.count + 1#8 }

/-- A report to the record of a drive (R34, R109). -/
def State.report (s : State) (d : DriveNo) (r : Report) : State :=
  { s with faults := upd s.faults (Fin.castSucc d) (fun f => f.take r) }

/-- A report to the global record (R10). -/
def State.reportGlobal (s : State) (r : Report) : State := { s with faults := upd s.faults 4 (fun f => f.take r) }

/-- A drive fault with the target it names and no requester (R109). -/
def State.driveFault (s : State) (d : DriveNo) (c : FaultCode) (cyl head : Nat) (id : Option Nat) : State :=
  s.report d { code := c, requester := none, cylinder := some cyl, head := some head, sectorId := id }

def DriveFailure.code : DriveFailure → FaultCode
  | .notReady => .notReady
  | .seekFault => .seekFault
  | .noIndex => .noIndex

def DriveFailure.outcome : DriveFailure → ReqOutcome
  | .notReady => .notReady
  | .seekFault => .seekFault
  | .noIndex => .noIndex

def WaitFailure.code : WaitFailure → FaultCode
  | .drive f => f.code
  | .volumeLost => .volumeLost
  | .noVolume => .noVolume

/-- The attention line: at least one outcome or fault code is not NONE (R14). -/
def State.attention (s : State) : Bool :=
  s.records.toList.any (fun r => decide (r.outcome ≠ .none)) || s.faults.toList.any (fun f => decide (f.code ≠ .none))

/-! ### Output lines of the drive cable -/

/-- MOTOR is on while the media state is STARTING, RUNNING or LOADED (R111). -/
def Drive.motorOn (v : Drive) : Bool :=
  decide (v.media = .starting) || decide (v.media = .running) || decide (v.media = .loaded)

/-- HEAD LOAD is on while the media state is LOADED (R111). -/
def Drive.headLoaded (v : Drive) : Bool := decide (v.media = .loaded)

/-- The heads are turning under a motor at speed (R107). -/
def Drive.atSpeed (v : Drive) : Bool := decide (v.media = .running) || decide (v.media = .loaded)

/-! ### Volumes -/

def State.volume (s : State) (d : DriveNo) : VolumeState := s.records[d].state

/-- An outcome stored in a Mount Record (R127, R151). -/
def State.setOutcome (s : State) (d : DriveNo) (o : ReqOutcome) : State := s.updRecord d (fun m => { m with outcome := o })

def State.setVolume (s : State) (d : DriveNo) (v : VolumeState) : State := s.updRecord d (fun m => { m with state := v })

/-- The volume becomes UNMOUNTED: the geometry copy is removed, the request in progress ended, the flush set emptied,
the guard lock opened (R126); a pending discard has been carried out or cancelled (R135). -/
def State.unmount (s : State) (d : DriveNo) : State :=
  { s.updRecord d (fun m =>
      { m with
        state := .unmounted
        progress := none
        flushSet := []
        flushFailed := false
        pendingDiscard := false
        host := { m.host with guardLock := false } }) with
    geometry := upd s.geometry d (fun _ => none) }

/-- The request in progress ends and the volume takes a state (R131, R132, R133, R134). -/
def State.endRequest (s : State) (d : DriveNo) (v : VolumeState) (o : ReqOutcome) : State :=
  s.updRecord d (fun m =>
    { m with state := v, outcome := o, progress := none, flushSet := [], flushFailed := false })

/-- The class of the request in progress: the one it was taken with, for every WRITE that it asks for (R127, R143;
log 35). -/
def State.requestClass (s : State) (d : DriveNo) : OpClass :=
  match s.records[d].progress with
  | some p => p.cls
  | none => .background

/-- The volume is LOST or RECLAIMING (R134). -/
def State.volumeLost (s : State) (d : DriveNo) : Bool :=
  decide (s.volume d = .lost) || decide (s.volume d = .reclaiming)

/-- The volume is FREEZING, or RELEASING in phase 1 (R145). -/
def State.writingOut (s : State) (d : DriveNo) : Bool :=
  decide (s.volume d = .freezing) ||
    (decide (s.volume d = .releasing) && s.records[d].progress.all (fun p => !p.phase2))

/-- The volume state admits fills for an access of the kind given (R43). -/
def VolumeState.admits (v : VolumeState) (write : Bool) : Bool :=
  match v with
  | .mounted | .flushing => true
  | .freezing | .frozen => !write
  | _ => false

/-! ### Slots and sectors -/

/-- The DRAM address of a byte of a slot (R25). -/
def State.slotAddr (s : State) (k w : Nat) : Nat := s.straps.poolBase + k * Config.slotSize + w

def Slot.sector (t : Slot) (p : Nat) : Sector := t.sectors.getD p { state := .valid, report := false }

def Slot.setSector (t : Slot) (p : Nat) (f : Sector → Sector) : Slot := { t with sectors := t.sectors.modify p f }

def Slot.mapSectors (t : Slot) (f : Sector → Sector) : Slot := { t with sectors := t.sectors.map f }

def Slot.holds (t : Slot) (st : SectorState) : Bool := t.sectors.any (fun e => decide (e.state = st))

/-- The slot holds a DIRTY sector. -/
def Slot.dirty (t : Slot) : Bool := t.holds .dirty

/-- The slot holds a DIRTY, OUTBOUND or WRITTEN sector, as the dirty count counts it (R59). -/
def Slot.unwritten (t : Slot) : Bool := t.holds .dirty || t.holds .outbound || t.holds .written

/-- OUTBOUND and WRITTEN sectors become DIRTY (R55, R57). -/
def Sector.undo (e : Sector) : Sector :=
  if e.state = .outbound ∨ e.state = .written then { e with state := .dirty } else e

/-- A sector becomes DAMAGED with its read-report marker set (R50, R51). -/
def Sector.damage (e : Sector) : Sector := if e.state = .absent then { state := .damaged, report := true } else e

def Slot.onDrive (t : Slot) (d : DriveNo) : Bool := t.key.any (fun k => decide (k.drive = d))

/-- The numbers of the slots that a condition holds of, ascending. -/
def State.slotsWhere (s : State) (q : Nat → Slot → Bool) : List Nat :=
  (List.range s.slots.length).filter (fun k => q k (s.slot k))

/-- The slots whose key names a drive, ascending. -/
def State.slotsOf (s : State) (d : DriveNo) : List Nat := s.slotsWhere (fun _ t => t.onDrive d)

/-- The slots of a drive that its dirty count counts, ascending (R59, R144, R145). -/
def State.unwrittenSlots (s : State) (d : DriveNo) : List Nat := s.slotsWhere (fun _ t => t.onDrive d && t.unwritten)

/-- The resident count of a drive (R59). -/
def State.residentCount (s : State) (d : DriveNo) : Nat := (s.slots.filter (fun t => t.onDrive d)).length

/-- The dirty count of a drive (R59). -/
def State.dirtyCount (s : State) (d : DriveNo) : Nat := (s.slots.filter (fun t => t.onDrive d && t.unwritten)).length

/-- The slot that holds a key, among the slots that are not FREE (R38). -/
def State.lookup (s : State) (key : Key) : Option Nat :=
  s.slots.findIdx? (fun t => decide (t.state ≠ .free) && decide (t.key = some key))

/-- FFh in the slot bytes of every ABSENT sector that a condition names (R50, R51). -/
def State.fillAbsent (s : State) (k : Nat) (size : Nat) (q : Nat → Bool) : State :=
  { s with
    mem := (List.range (s.slot k).sectors.length).foldl
      (fun m p => if ((s.slot k).sector p).state = .absent ∧ q p then
          Memory.store m (s.slotAddr k (p * size)) (List.replicate size 0xFF#8) else m)
      s.mem }

/-- The sector size of the volume whose key a slot holds, from the geometry copy. -/
def State.slotSectorSize (s : State) (k : Nat) : Nat :=
  match (s.slot k).key with
  | some key => match s.geometry[key.drive] with
    | some g => sectorSize g.size
    | none => 0
  | none => 0

/-- The physical sector ID of a logical position of a track, from the geometry copy (R21). -/
def State.idOf (s : State) (key : Key) (p : Nat) : Option Nat :=
  s.geometry[key.drive].map (fun g => g.sectorId key.cylinder p)

/-- The recency order with a slot moved to its front (R47). -/
def State.touch (s : State) (k : Nat) : State := { s with recency := k :: s.recency.erase k }

/-- A slot becomes FREE and joins the free list at its tail (R35, R46, R47). -/
def State.freeSlot (s : State) (k : Nat) : State :=
  { s.updSlot k (fun t =>
      { t with
        state := .free
        key := none
        sectors := []
        dirtySince := none
        writeFailed := false
        yields := 0
        active := none
        pendingWrite := none }) with
    recency := s.recency.erase k
    freeList := s.freeList ++ [k] }

/-- Several slots become FREE together, in ascending number (R46). -/
def State.freeSlots (s : State) (ks : List Nat) : State := ks.foldl State.freeSlot s

/-- A slot becomes STRANDED: its sectors in flight become DIRTY, its ABSENT sectors DAMAGED with FFh bytes (R57). -/
def State.strandSlot (s : State) (k : Nat) : State :=
  (s.fillAbsent k (s.slotSectorSize k) (fun _ => true)).updSlot k (fun t =>
    { (t.mapSectors (fun e => e.undo.damage)) with
      state := .stranded
      dirtySince := none
      yields := 0
      active := none
      pendingWrite := none })

/-! ### Operations -/

def Work.slot? : Work → Option Nat
  | .fill k _ => some k
  | .write k _ _ => some k
  | .probe => none

def Work.isFill : Work → Bool
  | .fill _ _ => true
  | _ => false

def Work.isWrite : Work → Bool
  | .write _ _ _ => true
  | _ => false

/-- The current operation is the one in SEEKING, POSITIONED or TRANSFERRING (R75). -/
def Op.isCurrent (o : Op) : Bool := decide (o.phase ≠ .queued)

/-- The drive's current operation (R75). -/
def Drive.currentOp (v : Drive) : Option Op := v.queue.find? Op.isCurrent

/-- The drive's operation of a slot, or its PROBE (R76). -/
def Drive.opOf (v : Drive) (slot : Option Nat) : Option Op := v.queue.find? (fun o => decide (o.work.slot? = slot))

/-- The operation link of a slot, found in the queue of its key's drive (R35; log 20). -/
def State.link (s : State) (k : Nat) : Option Op :=
  match (s.slot k).key with
  | some key => s.drives[key.drive].opOf (some k)
  | none => none

/-- The drive's operation of a slot changed. -/
def State.updOp (s : State) (d : DriveNo) (slot : Option Nat) (f : Op → Op) : State :=
  s.updDrive d (fun v => { v with queue := v.queue.map (fun o => if o.work.slot? = slot then f o else o) })

/-- The drive's operation of a slot removed from its queue. -/
def State.removeOp (s : State) (d : DriveNo) (slot : Option Nat) : State :=
  s.updDrive d (fun v => { v with queue := v.queue.filter (fun o => decide (o.work.slot? ≠ slot)) })

/-! ### Waiters -/

/-- The class of a requester as the Requester Class Table holds it (R27). -/
def State.classOf (s : State) (r : Requester) : Option OpClass := classOfByte s.classes[r]

/-- The entry as a wait, if it is one. -/
def WaiterEntry.wait? : WaiterEntry → Option Waiter
  | .wait w => some w
  | _ => none

/-- The entry in a hold status or in EXPIRED that an access matches (R62). -/
def WaiterEntry.matching (e : WaiterEntry) (key : Key) (p : Nat) : Option Waiter :=
  match e with
  | .wait w =>
    if w.key = key ∧ w.sector = p then
      match w.status with
      | .failed _ => none
      | _ => some w
    else none
  | _ => none

/-- The wait that a failing fill turns to FAILED: held ON_FILL on the key, or expired so held (R71). -/
def WaiterEntry.failFill (e : WaiterEntry) (key : Key) (f : DriveFailure) : WaiterEntry :=
  match e with
  | .wait w =>
    if w.key = key ∧ (w.status = .hold .onFill ∨ w.status = .expired .onFill) then
      .wait { w with status := .failed (.drive f) }
    else e
  | _ => e

/-- The wait that a removal or a discard of a drive turns to FAILED (R72). -/
def WaiterEntry.failDrive (e : WaiterEntry) (d : DriveNo) (code : WaitFailure) : WaiterEntry :=
  match e with
  | .wait w =>
    if w.key.drive = d then
      match w.status with
      | .failed _ => e
      | _ => .wait { w with status := .failed code }
    else e
  | _ => e

def State.failDriveWaiters (s : State) (d : DriveNo) (code : WaitFailure) : State :=
  { s with waiters := updAll s.waiters (fun e => e.failDrive d code) }

def State.failFillWaiters (s : State) (key : Key) (f : DriveFailure) : State :=
  { s with waiters := updAll s.waiters (fun e => e.failFill key f) }

/-- The slot-wait of an entry, if its status is SLOT_WAIT (R48). -/
def WaiterEntry.slotWait? (e : WaiterEntry) : Option Waiter :=
  match e with
  | .wait w => if w.status = .hold .slotWait then some w else none
  | _ => none

end Sys2Proof.Machine
end

