-- ==== Sys2Proof/Machine/ControlBlock.lean ====
section
/-! DEFINITION. The Control Block: its layout as the part's copies give it, the stores an event makes, the default
writing and the rewrite. -/

namespace Sys2Proof.Machine

/-! ### Encodings (R146) -/

def VolumeState.encode : VolumeState → Nat
  | .unmounted => 0
  | .mounting => 1
  | .mounted => 2
  | .flushing => 3
  | .freezing => 4
  | .frozen => 5
  | .releasing => 6
  | .lost => 7
  | .reclaiming => 8

def ReqOutcome.encode : ReqOutcome → Nat
  | .none => 0
  | .done => 1
  | .doneNoStamp => 2
  | .writeFailed => 3
  | .busy => 4
  | .noVolume => 5
  | .alreadyMounted => 6
  | .strandedData => 7
  | .notLost => 8
  | .stampUnknown => 9
  | .stampMismatch => 10
  | .notReady => 11
  | .seekFault => 12
  | .noIndex => 13
  | .noFormat => 14
  | .geometryMismatch => 15
  | .mediaRemoved => 16
  | .unknownRequest => 17
  | .driveAbsent => 18

def FaultCode.encode : FaultCode → Nat
  | .none => 0
  | .barred => 1
  | .noVolume => 2
  | .beyondVolume => 3
  | .writeDropped => 4
  | .waitExceeded => 5
  | .volumeLost => 6
  | .readDamaged => 7
  | .notReady => 8
  | .seekFault => 9
  | .noIndex => 10
  | .notFound => 11
  | .dataCrc => 12
  | .writeProtected => 13
  | .verifyFailed => 14
  | .slotStarved => 15
  | .unpopulated => 16

def Media.encode : Media → Nat
  | .noMedia => 0
  | .stopped => 1
  | .starting => 2
  | .running => 3
  | .loaded => 4

def boolByte (b : Bool) : Byte := if b then 1 else 0

/-- A part that may be absent, FFh when it is (R146). -/
def optByte (n : Option Nat) : Byte :=
  match n with
  | some v => BitVec.ofNat 8 v
  | none => 0xFF#8

/-- One byte of a word field: the low byte at the lower offset (R146). -/
def byteOfWord (w : Word) (high : Bool) : Byte := if high then hiByte w else loByte w

/-! ### The fields as the part's copies hold them -/

/-- The header, offsets 000h to 009h (R146). -/
def State.headerByte (s : State) (o : Nat) : Byte :=
  match o with
  | 0 => loByte s.layoutVersion
  | 1 => hiByte s.layoutVersion
  | 2 => loByte (BitVec.ofNat 16 s.straps.dramKiB)
  | 3 => hiByte (BitVec.ofNat 16 s.straps.dramKiB)
  | 4 => BitVec.ofNat 8 s.straps.slots
  | 5 => BitVec.ofNat 8 s.straps.drives
  | 6 => loByte (BitVec.ofNat 16 s.straps.spinUpMs)
  | 7 => hiByte (BitVec.ofNat 16 s.straps.spinUpMs)
  | 8 => loByte (BitVec.ofNat 16 s.straps.cbBase)
  | _ => hiByte (BitVec.ofNat 16 s.straps.cbBase)

/-- The Settings, offsets 010h to 017h (R149). -/
def Settings.byte (t : Settings) (o : Nat) : Byte :=
  match o with
  | 0 => t.writeBackDelay
  | 1 => t.waiterLimit
  | 2 => t.timeoutAction
  | 3 => t.promotionInterval
  | 4 => t.motorIdle
  | 5 => t.headUnload
  | 6 => t.settle
  | _ => t.yieldLimit

/-- A Mount Record's byte at an offset from the record; absent where the layout assigns none (R146). -/
def State.recordByte (s : State) (d : DriveNo) (o : Nat) : Option Byte :=
  let m := s.records[d]
  let v := s.drives[d]
  match o with
  | 0x00 => some 0
  | 0x01 => some m.host.requestClass
  | 0x02 => some (boolByte m.host.volume.double)
  | 0x03 => some (match m.host.volume.sizeCode with
    | some c => BitVec.ofNat 8 c.val
    | none => 4)
  | 0x04 => some m.host.volume.interleave
  | 0x05 => some m.host.volume.skew
  | 0x06 => some (BitVec.ofNat 8 m.host.volume.stepRate.val)
  | 0x07 => some (boolByte m.host.volume.verify)
  | 0x08 => some m.host.volume.retry
  | 0x09 => some (boolByte m.host.writeAllow)
  | 0x0A => some (BitVec.ofNat 8 m.host.guardExtent.val)
  | 0x0B => some (boolByte m.host.guardHigh)
  | 0x0C => some (boolByte m.host.guardComplement)
  | 0x0D => some (boolByte m.host.guardLock)
  | 0x0E => some m.host.guardExempt
  | 0x10 => some (BitVec.ofNat 8 m.state.encode)
  | 0x11 => some 0
  | 0x12 => some (BitVec.ofNat 8 m.outcome.encode)
  | 0x13 => some 0
  | 0x14 => some (BitVec.ofNat 8 m.effSize.val)
  | 0x15 => some (BitVec.ofNat 8 m.effInterleave)
  | 0x16 => some (BitVec.ofNat 8 m.effSkew)
  | 0x17 => some (boolByte m.stamp.isSome)
  | 0x18 => some (loByte (m.stamp.getD 0))
  | 0x19 => some (hiByte (m.stamp.getD 0))
  | 0x1A => some m.generation
  | 0x1B => some (BitVec.ofNat 8 v.media.encode)
  | 0x1C => some (optByte v.head)
  | 0x1E => some (BitVec.ofNat 8 (s.residentCount d))
  | 0x1F => some (BitVec.ofNat 8 (s.dirtyCount d))
  | _ => none

/-- A Fault Record's byte at an offset from the record (R146). -/
def State.faultByte (s : State) (i : Fin 5) (o : Nat) : Option Byte :=
  let f := s.faults[i]
  match o with
  | 0 => some (BitVec.ofNat 8 f.code.encode)
  | 1 => some 0
  | 2 => some (optByte (f.requester.map Fin.val))
  | 3 => some (if i.val < 4 then BitVec.ofNat 8 i.val else 0xFF#8)
  | 4 => some (optByte f.cylinder)
  | 5 => some (optByte f.head)
  | 6 => some (optByte f.sectorId)
  | 7 => some f.count
  | _ => none

/-- The byte that the part's copies give at an offset of the Control Block; absent where the layout assigns none
(R146). -/
def State.cbByte (s : State) (o : Nat) : Option Byte :=
  if o < 0x0A then some (s.headerByte o)
  else if o < 0x10 then none
  else if o < 0x18 then some (s.settings.byte (o - 0x10))
  else if o < 0x20 then none
  else if o < 0x28 then some s.classes[Fin.ofNat 8 (o - 0x20)]
  else if o < 0x40 then none
  else if o < 0x140 then s.recordByte (Fin.ofNat 4 ((o - 0x40) / 0x40)) ((o - 0x40) % 0x40)
  else if o < 0x190 then s.faultByte (Fin.ofNat 5 ((o - 0x140) / 0x10)) ((o - 0x140) % 0x10)
  else none

/-- Offsets from here on hold no field (R146). -/
def cbEnd : Nat := 0x190

/-! ### The part's own stores -/

/-- The part's byte at an offset stored into DRAM, where the layout assigns one (R147). -/
def State.storeCb (s : State) (o : Nat) : State :=
  match s.cbByte o with
  | some b => { s with mem := Memory.store s.mem (s.straps.cbBase + o) [b] }
  | none => s

/-- The part's bytes at the offsets from a to b - 1 stored into DRAM. -/
def State.storeCbRange (s : State) (a b : Nat) : State :=
  (List.range (b - a)).foldl (fun t i => t.storeCb (a + i)) s

/-- An event has changed what the part stores at an offset, which it does whole: the word, or, in a Fault Record, the record
(R9, R152); old is the state before the event. -/
def State.cbChanged (old s : State) (o : Nat) : Bool :=
  if 0x140 ≤ o then decide (old.faults[Fin.ofNat 5 ((o - 0x140) / 0x10)] ≠ s.faults[Fin.ofNat 5 ((o - 0x140) / 0x10)])
  else decide (old.cbByte (o / 2 * 2) ≠ s.cbByte (o / 2 * 2)) || decide (old.cbByte (o / 2 * 2 + 1) ≠ s.cbByte (o / 2 * 2 + 1))

/-- The words and the Fault Records that an event has changed, stored into DRAM at the event (R9, R112, R152); old is the
state before it. -/
def State.storeChanges (old s : State) : State :=
  (List.range cbEnd).foldl (fun t o => if old.cbChanged s o then t.storeCb o else t) s

/-- The part's copies at the end of the drain: Settings and classes at their defaults, outcomes and Fault Records
cleared, the record of an UNMOUNTED volume as at power-on (R158). -/
def State.rewriteCopies (s : State) : State :=
  { s with
    settings := Settings.initial
    classes := Vector.replicate 8 2
    faults := Vector.replicate 5 FaultRecord.empty
    records := updAll s.records (fun m =>
      if m.state = .lost then { m with outcome := .none } else MountRecord.initial) }

/-- The drain has ended in this event: a rewrite is under way that was not before (R158). -/
def drainEnded (old s : State) : Bool :=
  match s.phase with
  | .rewriting _ => match old.phase with
    | .rewriting _ => false
    | _ => true
  | _ => false

/-- The end of an event: the changed fields are stored; if the drain ended, the copies take the values of the rewrite,
which stores them later (R158; log 6). -/
def State.finish (old s : State) : State :=
  let t := old.storeChanges s
  if drainEnded old s then t.rewriteCopies else t

/-- One event: the next event number, its effects, the part's stores. -/
def State.event (s : State) (f : State → State) : State :=
  s.finish (f { s with now := { s.now with seq := s.now.seq + 1 } })

/-! ### The default writing and the rewrite -/

/-- One word of a writing in progress, when nothing is commanded (log 6); time goes on by 1 ms (log 4). -/
def State.tick (s : State) : State :=
  let t := { s with now := { s.now with ms := s.now.ms + 1 } }
  match s.phase with
  | .defaultWriting n =>
    if n < cbEnd then { t.storeCbRange n (n + 2) with phase := .defaultWriting (n + 2) } else t
  | .rewriting n =>
    if n < cbEnd then { t.storeCbRange n (n + 2) with phase := .rewriting (n + 2) } else t
  | _ => t

/-- A writing's end: the rest of the block is stored, the layout version as 1 last, and watching resumes; RESET_HOLD
entries become empty (R155, R158, R73). -/
def State.endWriting (s : State) (next : Nat) : State :=
  let t := s.storeCbRange next cbEnd
  { t with
    layoutVersion := 1
    phase := .running
    waiters := updAll t.waiters (fun e => if e = .resetHold then .empty else e) }

end Sys2Proof.Machine
end

