-- ==== Sys2Proof/Machine/Fields.lean ====
section
/-! DEFINITION. The recording format: address marks, the CRC of a field, the label stamp. -/

namespace Sys2Proof.Machine

/-- One step of the CRC register, generator x^16 + x^12 + x^5 + 1 (R91). -/
def crcShift (c : Word) : Word := if c.msb then (c <<< 1) ^^^ 0x1021#16 else c <<< 1

/-- The CRC register after one more byte, most significant bit first (R91). -/
def crcByte (c : Word) (b : Byte) : Word :=
  crcShift (crcShift (crcShift (crcShift (crcShift (crcShift (crcShift (crcShift (c ^^^ (b ++ 0#8)))))))))

/-- The CRC of a sequence of bytes, the register preset to all ones (R91). -/
def crcOf (bs : List Byte) : Word := bs.foldl crcByte 0xFFFF#16

/-- An address mark as bytes: in FM the byte itself, in MFM three bytes A1h before it (R90). -/
def addressMark (mfm : Bool) (b : Byte) : List Byte := if mfm then [0xA1#8, 0xA1#8, 0xA1#8, b] else [b]

/-- Whether an ID field's recorded CRC is the one computed over its mark and bytes (R91). -/
def IdField.good (f : IdField) : Bool :=
  decide (f.crc = crcOf (addressMark f.mfm 0xFE#8 ++ [f.cylinder, f.head, f.sectorId, f.sizeCode]))

/-- The CRC of a data field with a data address mark (R91). -/
def dataCrc (mfm : Bool) (bytes : List Byte) : Word := crcOf (addressMark mfm 0xFB#8 ++ bytes)

/-- Whether a data field's recorded CRC is the one computed over its mark and bytes (R91). -/
def DataField.good (f : DataField) : Bool := decide (f.crc = dataCrc f.mfm f.bytes)

/-- Whether a data field of the size code given has been read: it begins with a data address mark and holds a whole
sector (R90; log 11). -/
def DataField.isSector (f : DataField) (size : Fin 4) : Bool :=
  decide (f.mark = .data) && decide (f.bytes.length = sectorSize size)

/-- The data field that the Drive Port writes: a data address mark, the bytes and their CRC (R90, R91). -/
def DataField.ofBytes (size : Fin 4) (bytes : List Byte) : DataField where
  mfm := recordedMfm size
  mark := .data
  bytes := bytes
  crc := dataCrc (recordedMfm size) bytes

/-- The two sums of a stamp, each from 0 to 254 (R105). -/
def stampSums (bs : List Byte) : Nat × Nat :=
  bs.foldl (fun s b =>
    let first := (s.1 + b.toNat) % 255
    (first, (s.2 + first) % 255)) (0, 0)

/-- The label stamp: second sum × 256 + first sum (R105). -/
def stampOf (bs : List Byte) : Word := BitVec.ofNat 16 ((stampSums bs).2 * 256 + (stampSums bs).1)

end Sys2Proof.Machine
end

