-- ==== Sys2Proof/Machine/Queues.lean ====
section
/-! DEFINITION. Asking for drive work: queueing and merging operations, the assignment of slots, the victim rule, release
events and grants, age write-back. Operations queued here are chosen at the end of the event (Schedule.lean). -/

namespace Sys2Proof.Machine

/-! ### Queueing and merging (R76, R77, R143) -/

/-- A record in phase QUEUED at the tail of the drive's queue (R76). -/
def State.queueOp (s : State) (d : DriveNo) (work : Work) (reason : Option Reason) (cyl head : Nat) (cls : OpClass) : State :=
  s.updDrive d (fun v =>
    { v with
      queue := v.queue ++
        [{ work := work, reason := reason, cylinder := cyl, head := head, cls := cls, enqueued := s.now, promoted := s.now,
           phase := .queued }] })

/-- The eviction mark is set on a WRITE (R77). -/
def Work.mark (w : Work) (evict : Bool) : Work :=
  match w with
  | .write k g e => .write k g (e || evict)
  | w => w

/-- A request that merges: the class rises to the higher of the two (R77). -/
def Op.merge (o : Op) (cls : OpClass) (evict : Bool) : Op := { o with cls := o.cls.max cls, work := o.work.mark evict }

/-- A FILL asked for a slot, at its key's target (R44). -/
def State.requestFill (s : State) (k : Nat) (key : Key) (cls : OpClass) : State :=
  match s.drives[key.drive].opOf (some k) with
  | some _ => s.updOp key.drive (some k) (fun o => o.merge cls false)
  | none => s.queueOp key.drive (.fill k (s.slot k).generation) none key.cylinder key.head cls

/-- A WRITE asked for a slot with a reason: created, with its eviction mark set when the reason is EVICT, or merged into the
slot's operation (R76, R77, R143). -/
def State.requestWrite (s : State) (k : Nat) (reason : Reason) (cls : OpClass) : State :=
  match (s.slot k).key with
  | some key => match s.drives[key.drive].opOf (some k) with
    | some _ => s.updOp key.drive (some k) (fun o => o.merge cls (decide (reason = .evict)))
    | none => s.queueOp key.drive (.write k (s.slot k).generation (decide (reason = .evict))) (some reason) key.cylinder key.head cls
  | none => s

/-- A PROBE asked for a drive (R76, R129, R134). -/
def State.requestProbe (s : State) (d : DriveNo) (cls : OpClass) : State :=
  match s.drives[d].opOf none with
  | some _ => s.updOp d none (fun o => o.merge cls false)
  | none => s.queueOp d .probe none 0 0 cls

/-- The pending write that a request leaves on a slot whose operation is a FILL (R143). -/
def Slot.leavePending (t : Slot) (reason : Reason) (cls : OpClass) : Slot :=
  { t with
    pendingWrite := some (match t.pendingWrite with
      | some p => { p with cls := p.cls.max cls }
      | none => { reason := reason, cls := cls }) }

/-- A WRITE asked for a slot by a FLUSH, FREEZE, RELEASE, RECLAIM or reset-flush: the write-failed flag is cleared, and a
FILL in the way keeps the request as a pending write (R141, R143). -/
def State.requestWriteFor (s : State) (k : Nat) (reason : Reason) (cls : OpClass) : State :=
  let s1 := s.updSlot k (fun t => { t with writeFailed := false })
  let fills := match s.link k with
    | some o => o.work.isFill
    | none => false
  if fills then (s1.requestWrite k reason cls).updSlot k (fun t => t.leavePending reason cls)
  else s1.requestWrite k reason cls

/-! ### Age write-back (R140) -/

/-- The conditions of an age write-back other than the time: RESIDENT, a dirty-since time, no operation, flag clear. -/
def State.ageReady (s : State) (k : Nat) : Option Nat :=
  let t := s.slot k
  if t.state = .resident ∧ s.link k = none ∧ t.writeFailed = false then t.dirtySince else none

/-- The write-back delay in ms (R149). -/
def Settings.ageMs (t : Settings) : Nat := t.writeBackDelay.toNat * 1000

/-- An age write-back asked for a slot if all four conditions hold now (R140). -/
def State.ageCheck (s : State) (k : Nat) : State :=
  match s.ageReady k with
  | some since => if since + s.settings.ageMs ≤ s.now.ms then s.requestWrite k .age .background else s
  | none => s

/-! ### Assignment and the victim rule (R43, R44) -/

/-- The slot may be reused: RESIDENT, no operation, every sector VALID or DAMAGED, write-failed flag clear (R43 step 2,
R141). -/
def State.reusable (s : State) (k : Nat) : Bool :=
  let t := s.slot k
  decide (t.state = .resident) && (s.link k).isNone && !t.writeFailed &&
    t.sectors.all (fun e => decide (e.state = .valid) || decide (e.state = .damaged))

/-- The operation is a WRITE that this very event has asked for by R140 or R145 (R142; log 26). -/
def Op.justAsked (o : Op) (now : Stamp) : Bool :=
  decide (o.enqueued.seq = now.seq) &&
    (decide (o.reason = some .age) || decide (o.reason = some .freeze) || decide (o.reason = some .release))

/-- The slot may be given an eviction write: RESIDENT, a DIRTY sector, write-failed flag clear, no operation linked (R43
step 3); for the repeat an operation that this very event has asked for counts as none (R142). -/
def State.evictable (s : State) (again : Bool) (k : Nat) : Bool :=
  let t := s.slot k
  let unlinked := match s.link k with
    | none => true
    | some o => again && o.justAsked s.now
  decide (t.state = .resident) && unlinked && !t.writeFailed && t.dirty

/-- Steps 1 and 2 of the victim rule: the head of the free list, or the least recent reusable slot (R43). -/
def State.victim (s : State) : Option Nat :=
  match s.freeList with
  | k :: _ => some k
  | [] => s.recency.reverse.find? s.reusable

/-- The slot that step 3 of the victim rule, or its repeat, chooses: the least recent evictable one (R43, R142). -/
def State.evictionTarget (s : State) (again : Bool) : Option Nat := s.recency.reverse.find? (s.evictable again)

/-- The sector count of a drive's volume, as the geometry copy holds it (R37). -/
def State.sectorCount (s : State) (d : DriveNo) : Nat :=
  match s.geometry[d] with
  | some g => sectorsPerTrack g.size
  | none => 0

/-- A slot is assigned to a key and its FILL asked for (R44). -/
def State.assign (s : State) (k : Nat) (key : Key) (cls : OpClass) : State :=
  let s1 := s.updSlot k (fun _ =>
    { state := .filling
      key := some key
      generation := s.records[key.drive].generation
      sectors := List.replicate (s.sectorCount key.drive) { state := .absent, report := false }
      dirtySince := none
      writeFailed := false
      yields := 0
      active := none
      pendingWrite := none })
  let s2 := { s1 with freeList := s1.freeList.erase k, recency := k :: s1.recency.erase k }
  s2.requestFill k key cls

/-! ### Release events and grants (R48) -/

/-- The requester numbers in order. -/
def requesters : List Requester := [0, 1, 2, 3, 4, 5, 6, 7]

/-- The slot-wait a requester has. -/
def State.slotWait (s : State) (r : Requester) : Option Waiter := (s.waiters[r] : WaiterEntry).slotWait?

/-- The rank of slot-waiters: by class, then the earlier wait start; a list in requester order keeps the third rule
(R48). -/
def Waiter.before (a b : Waiter) : Bool :=
  if a.cls = b.cls then decide (a.start.seq ≤ b.start.seq) else decide (b.cls.rank < a.cls.rank)

/-- A waiter put into a ranked list. -/
def rankInsert (x : Requester × Waiter) : List (Requester × Waiter) → List (Requester × Waiter)
  | [] => [x]
  | y :: ys => if x.2.before y.2 then x :: y :: ys else y :: rankInsert x ys

/-- The slot-waiters in rank order (R48). -/
def State.slotWaiters (s : State) : List (Requester × Waiter) :=
  (requesters.filterMap (fun r => (s.slotWait r).map (fun w => (r, w)))).foldr rankInsert []

/-- The highest class among the slot-waiters of a key (R48). -/
def State.keyClass (s : State) (key : Key) (cls : OpClass) : OpClass :=
  (s.slotWaiters.filter (fun x => decide (x.2.key = key))).foldl (fun c x => c.max x.2.cls) cls

/-- A slot-wait of a key becomes ON_FILL (R48). -/
def WaiterEntry.granted (e : WaiterEntry) (key : Key) : WaiterEntry :=
  match e with
  | .wait w => if w.key = key ∧ w.status = .hold .slotWait then .wait { w with status := .hold .onFill } else e
  | _ => e

/-- A slot granted to the slot-waiters of a key (R48 step 3). -/
def State.grantSlot (s : State) (k : Nat) (key : Key) (cls : OpClass) : State :=
  { s.assign k key (s.keyClass key cls) with waiters := updAll s.waiters (fun e => e.granted key) }

/-- The grants of one release event, in rank order; the waiters of a drive whose removal or discard frees slots are
passed over (R48). The eviction write with which they stop has the class of the waiter they stop at (R142; log 34). -/
def State.grants (skip : Option DriveNo) : List (Requester × Waiter) → State → State
  | [], s => s
  | (r, w) :: rest, s =>
    if s.slotWait r = none ∨ s.lookup w.key ≠ none ∨ (s.volume w.key.drive).admits w.write = false ∨ skip = some w.key.drive then
      State.grants skip rest s
    else match s.victim with
      | some k => State.grants skip rest (s.grantSlot k w.key w.cls)
      | none => match s.evictionTarget false with
        | some k => s.requestWrite k .evict w.cls
        | none => s

/-- A release event (R48). -/
def State.releaseEvent (s : State) (skip : Option DriveNo) : State := State.grants skip s.slotWaiters s

/-- The release event of the slots that have become FREE, if there are any: slots that one event frees together make one release
event (R48, R57, R58; log 40). -/
def State.released (s : State) (freed : List Nat) (skip : Option DriveNo) : State :=
  if freed = [] then s else s.releaseEvent skip

/-- The repeat of step 3 after an eviction write that leaves its slot dirty, for the highest-ranked slot-waiter whose volume
admits fills, and with that waiter's class (log 41); a slot whose WRITE was asked for at this same event counts as having none
(R142). -/
def State.evictionRepeat (s : State) : State :=
  match s.slotWaiters.find? (fun x => (s.volume x.2.key.drive).admits x.2.write) with
  | some x => match s.evictionTarget true with
    | some k => s.requestWrite k .evict x.2.cls
    | none => s
  | none => s

end Sys2Proof.Machine
end

