-- ==== Sys2Proof/Machine/Seek.lean ====
section
/-! DEFINITION. Head movement: the stages of a seek (R82), steps (R93), recalibration (R94), and the choice of a drive's
next operation (R81) with the gain and loss notices (R116). -/

namespace Sys2Proof.Machine

/-- The step rate in ms of a step-rate code (R82). -/
def stepMs (code : Fin 4) : Nat :=
  match code with
  | 0 => 3
  | 1 => 6
  | 2 => 10
  | 3 => 15

/-- The step rate of a drive's operations: the code latched at its MOUNT (R82, R129, R134). -/
def State.stepRate (s : State) (d : DriveNo) : Nat := stepMs s.records[d].latched.stepRate

/-- An operation whose seek has ended (R82). -/
def Op.atTarget (o : Op) (now : Stamp) : Op :=
  if o.phase = .seeking then { o with phase := .positioned now, promoted := now } else o

/-- The seek ends: the side is selected and the operation becomes POSITIONED (R82). -/
def State.position (s : State) (d : DriveNo) : State :=
  s.updDrive d (fun v =>
    { v with
      side := match v.currentOp with
        | some o => o.head
        | none => v.side
      queue := v.queue.map (fun o => o.atTarget s.now)
      move := .idle
      moved := false })

/-- Stage 5: the settle time, if the seek took a step or loaded the head (R82). -/
def State.settleStage (s : State) (d : DriveNo) : State :=
  if s.drives[d].moved then
    s.updDrive d (fun v => { v with move := .settling (s.now.ms + s.settings.settle.toNat) })
  else s.position d

/-- Stage 4: the head is loaded if it is not (R82, R115). -/
def State.loadStage (s : State) (d : DriveNo) : State :=
  (s.updDrive d (fun v => if v.media = .running then { v with media := .loaded, moved := true } else v)).settleStage d

/-- A step given to a drive (R93). -/
def State.giveStep (s : State) (d : DriveNo) (inward : Bool) (m : Move) : State :=
  s.updDrive d (fun v =>
    { v with step := some { inward := inward, due := s.now.ms + s.stepRate d }, move := m, moved := true })

/-- Stage 3: steps to the target cylinder (R82). -/
def State.stepStage (s : State) (d : DriveNo) : State :=
  match s.drives[d].currentOp with
  | none => s
  | some o =>
    let h := s.drives[d].head.getD 0
    if h = o.cylinder then s.loadStage d else s.giveStep d (decide (h < o.cylinder)) .stepping

/-- A recalibration begins: it ends at once if TRACK0 reads true, and steps outward otherwise (R94). -/
def State.beginRecal (s : State) (d : DriveNo) : State :=
  if s.pins.track0.getLsbD d.val then (s.updDrive d (fun v => { v with head := some 0 })).stepStage d
  else s.giveStep d false (.recalibrating 1)

/-- Stage 2: a recalibration if the head position is unknown (R82). -/
def State.recalStage (s : State) (d : DriveNo) : State :=
  if s.drives[d].head = none then s.beginRecal d else s.stepStage d

/-- Stage 1: the motor (R82, R114). A drive with a step still under way waits for it first (R93; log 18); NO_MEDIA fails
the seek, which the caller has looked for. -/
def State.motorStage (s : State) (d : DriveNo) : State :=
  let v := s.drives[d]
  match v.media with
  | .noMedia => s
  | .stopped => s.updDrive d (fun v => { v with media := .starting, spinUp := some s.now.ms, move := .spinUp })
  | .starting =>
    if v.step.isSome then s.updDrive d (fun v => { v with move := .waitStep })
    else s.updDrive d (fun v => { v with move := .spinUp })
  | .running | .loaded =>
    if v.step.isSome then s.updDrive d (fun v => { v with move := .waitStep }) else s.recalStage d

/-! ### The choice of the next operation (R81) -/

/-- The QUEUED operations of the highest class present (R81 step 1). -/
def Drive.candidates (v : Drive) : List Op :=
  let q := v.queue.filter (fun o => decide (o.phase = .queued))
  let top := q.foldl (fun c o => c.max o.cls) .background
  q.filter (fun o => decide (o.cls = top))

/-- How far a target lies from the head in the sweep direction, absent when it lies the other way (R81 step 2). -/
def sweepDistance (head : Nat) (inward : Bool) (c : Nat) : Option Nat :=
  if inward then (if head ≤ c then some (c - head) else none) else (if c ≤ head then some (head - c) else none)

/-- The nearest candidate in the sweep direction; on one cylinder head 0 before head 1, on one track the earliest
enqueue time, in queue order (R81 steps 2 and 4). -/
def nearest (head : Nat) (inward : Bool) : List Op → Option Op
  | [] => none
  | o :: rest =>
    match sweepDistance head inward o.cylinder, nearest head inward rest with
    | none, r => r
    | some _, none => some o
    | some n, some b =>
      match sweepDistance head inward b.cylinder with
      | none => some o
      | some m =>
        if n < m then some o
        else if m < n then some b
        else if o.head < b.head then some o
        else if b.head < o.head then some b
        else if o.enqueued.seq ≤ b.enqueued.seq then some o else some b

/-- The operation that R81 chooses, with the sweep direction after the choice. An unknown head position counts as cylinder
0 with direction inward, and the direction stored after such a choice is the one it was made with (log 33). -/
def Drive.choice (v : Drive) : Option (Op × Bool) :=
  let h := v.head.getD 0
  let dir := if v.head = none then true else v.inward
  match nearest h dir v.candidates with
  | some o => some (o, dir)
  | none => (nearest h (!dir) v.candidates).map (fun o => (o, !dir))

/-- The gain notice: the flag is set and the idle timers are stopped (R116). -/
def Drive.gain (v : Drive) : Drive := { v with current := true, headUnload := none, motorIdle := none }

/-- The chosen operation becomes SEEKING, with the gain notice (R81, R116). -/
def State.choose (s : State) (d : DriveNo) (o : Op) (inward : Bool) : State :=
  s.updDrive d (fun v =>
    { v.gain with
      inward := inward
      move := .idle
      moved := false
      queue := v.queue.map (fun x => if x.work.slot? = o.work.slot? then { x with phase := .seeking } else x) })

/-- The motor-idle and head-unload times in ms (R149). -/
def Settings.motorIdleMs (t : Settings) : Nat := t.motorIdle.toNat * 1000

def Settings.headUnloadMs (t : Settings) : Nat := t.headUnload.toNat * 10

/-- The head is unloaded and the motor-idle timer starts (R116). -/
def Drive.unloadHead (v : Drive) (now : Nat) : Drive :=
  { v with media := .running, headUnload := none, motorIdle := some now }

/-- The loss notice: the flag is cleared and a timer starts by the media state; a head-unload delay of 0 expires at once
(R116). -/
def Drive.lose (v : Drive) (now delay : Nat) : Drive :=
  let w := { v with current := false, move := .idle, moved := false }
  match v.media with
  | .loaded => if delay = 0 then w.unloadHead now else { w with headUnload := some now }
  | .running => { w with motorIdle := some now }
  | _ => w

/-- The index watch runs while the drive is RUNNING or LOADED with a current operation, since the event from which both
hold (R107). -/
def Drive.watchAt (v : Drive) (now : Nat) : Drive :=
  { v with watch := if v.atSpeed && v.currentOp.isSome then some (v.watch.getD now) else none }

/-- The notices at the end of an event (R81, R116) and the index watch (R107). -/
def State.notices (s : State) : State :=
  { s with
    drives := updAll s.drives (fun v =>
      (if v.current && v.currentOp.isNone then v.lose s.now.ms s.settings.headUnloadMs else v).watchAt s.now.ms) }

/-- The motor stop at the failure of the current operation (R118). -/
def Drive.motorStop (v : Drive) : Drive :=
  { v with
    media := if v.motorOn then .stopped else v.media
    spinUp := none
    headUnload := none
    motorIdle := none
    move := .idle
    moved := false
    watch := none }

end Sys2Proof.Machine
end

