-- ==== Sys2Proof/Machine/WriteBack.lean ====
section
/-! DEFINITION. Dirty data: what the end of a write pass or of a fill means for the flush set, a freeze or release under
way, the age of a slot, and the waiters for slots. -/

namespace Sys2Proof.Machine

/-- How a WRITE ended without a yield: its pass ended (R55), it failed (R55, R83), its start was refused for the notch, or
found no DIRTY sector (R52). -/
inductive WriteEnd where
  | finished
  | failed
  | refused
  | empty
  deriving DecidableEq, Repr

/-! ### The flush set (R144) -/

/-- A member leaves the flush set, setting the failed mark if told so. -/
def MountRecord.leaveFlush (m : MountRecord) (k : Nat) (failed : Bool) : MountRecord :=
  { m with
    flushSet := m.flushSet.filter (fun x => decide (x.slot ≠ k))
    flushFailed := m.flushFailed || failed }

/-- A FLUSH whose set is empty completes (R131, R144). -/
def State.flushComplete (s : State) (d : DriveNo) : State :=
  if s.volume d = .flushing ∧ s.records[d].flushSet = [] then
    s.endRequest d .mounted (if s.records[d].flushFailed then .writeFailed else .done)
  else s

/-- What the end of a WRITE does to its slot's membership of the flush set (R144). -/
def State.flushEnd (s : State) (d : DriveNo) (k : Nat) (e : WriteEnd) : State :=
  match s.records[d].flushSet.find? (fun x => decide (x.slot = k)) with
  | none => s
  | some x =>
    match e with
    | .failed | .refused => (s.updRecord d (fun m => m.leaveFlush k true)).flushComplete d
    | .empty => (s.updRecord d (fun m => m.leaveFlush k false)).flushComplete d
    | .finished =>
      if x.underWay && (s.slot k).dirty then
        (s.updRecord d (fun m =>
          { m with flushSet := m.flushSet.map (fun y => if y.slot = k then { y with underWay := false } else y) })).requestWriteFor
            k .flush (s.requestClass d)
      else
        (s.updRecord d (fun m => m.leaveFlush k (!x.underWay && (s.slot k).writeFailed))).flushComplete d

/-! ### FREEZE and RELEASE (R145) -/

/-- A failed write ends a FREEZE, or a RELEASE in phase 1 (R132, R133, R145). -/
def State.freezeEnd (s : State) (d : DriveNo) (k : Nat) (e : WriteEnd) : State :=
  if s.writingOut d ∧ (e = .failed ∨ e = .refused ∨ (e = .finished ∧ (s.slot k).writeFailed = true)) then
    s.endRequest d .mounted .writeFailed
  else s

/-- The WRITE that a FREEZE or a RELEASE asks for again (R145). -/
def State.askAgain (s : State) (d : DriveNo) (k : Nat) : State :=
  let t := s.slot k
  if s.writingOut d ∧ t.state = .resident ∧ t.dirty = true ∧ s.link k = none ∧ t.pendingWrite = none ∧ t.writeFailed = false then
    s.requestWriteFor k (if s.volume d = .freezing then .freeze else .release) (s.requestClass d)
  else s

/-! ### The end of a WRITE -/

/-- The consequences of a WRITE's end for its slot: the host requests (R144, R145), the age (R140), then the release event
(R48, R55) or the eviction repeat (R142). -/
def State.afterWrite (s : State) (d : DriveNo) (k : Nat) (evict : Bool) (e : WriteEnd) : State :=
  let s1 := (s.flushEnd d k e).freezeEnd d k e
  let s2 := (s1.askAgain d k).ageCheck k
  if (s2.slot k).dirty = false then
    if e = .refused then s2 else s2.releaseEvent none
  else if evict ∧ e ≠ .empty then s2.evictionRepeat
  else s2

/-! ### The end of a fill -/

/-- A pending write carried out at the event that makes the slot RESIDENT (R143). -/
def State.carryPending (s : State) (d : DriveNo) (k : Nat) : State :=
  match (s.slot k).pendingWrite with
  | none => s
  | some p =>
    let s1 := s.updSlot k (fun t => { t with pendingWrite := none })
    if (s.slot k).dirty then s1.requestWriteFor k p.reason p.cls
    else (s1.updRecord d (fun m => m.leaveFlush k false)).flushComplete d

/-- The consequences of a fill's end that leaves its slot RESIDENT (R139, R140, R143, R145). -/
def State.afterFill (s : State) (d : DriveNo) (k : Nat) : State := ((s.carryPending d k).askAgain d k).ageCheck k

/-- A FILL that fails or is dropped: a slot without a DIRTY sector becomes FREE; one with a DIRTY sector becomes RESIDENT
with its ABSENT sectors DAMAGED (R51, R139). -/
def State.fillStopped (s : State) (k : Nat) : State :=
  if (s.slot k).state ≠ .filling then s
  else if (s.slot k).dirty then
    (s.fillAbsent k (s.slotSectorSize k) (fun _ => true)).updSlot k (fun t =>
      { t.mapSectors Sector.damage with state := .resident, dirtySince := some s.now.ms })
  else s.freeSlot k

/-- A FILL that fails with its consequences: the release event of a freed slot (R48, R51), or the pending write and the age
of one that stays; a slot that is not FILLING is left alone (R38). -/
def State.fillStoppedFully (s : State) (d : DriveNo) (k : Nat) : State :=
  if (s.slot k).state ≠ .filling then s
  else if (s.slot k).dirty then (s.fillStopped k).afterFill d k
  else (s.fillStopped k).releaseEvent none

end Sys2Proof.Machine
end

