-- ==== Sys2Proof/Machine/Volumes.lean ====
section
/-! DEFINITION. Volumes: the ends of MOUNT and RECLAIM, dropping operations, DISCARD, RELEASE, media removal, the drain. -/

namespace Sys2Proof.Machine

/-! ### PROBE results (R106, R130, R134) -/

/-- What a PROBE reports (R106). -/
inductive ProbeResult where
  | found (size : Fin 4) (stamp : Option Word)
  | noFormat
  | mismatch
  | failed (f : DriveFailure)
  deriving DecidableEq, Repr

/-- The effective geometry of a mount from the latched fields and the size code found (R23, R24, R130). -/
def Latched.geometry (l : Latched) (size : Fin 4) : Geometry where
  size := size
  heads := if l.double then 2 else 1
  interleave := effectiveInterleave size l.interleave.toNat
  skew := effectiveSkew size l.skew.toNat

/-- The Mount Record of a volume that has mounted (R124, R130, R136). -/
def MountRecord.mounted (m : MountRecord) (g : Geometry) (stamp : Option Word) : MountRecord :=
  { m with
    state := .mounted
    outcome := if stamp.isSome then .done else .doneNoStamp
    effSize := g.size
    effInterleave := g.interleave
    effSkew := g.skew
    stamp := stamp
    generation := m.generation + 1
    progress := none }

/-- The end of a MOUNT (R130). -/
def State.mountEnd (s : State) (d : DriveNo) (r : ProbeResult) : State :=
  match r with
  | .found size stamp =>
    let g := s.records[d].latched.geometry size
    { s.updRecord d (fun m => m.mounted g stamp) with geometry := upd s.geometry d (fun _ => some g) }
  | .noFormat => (s.unmount d).setOutcome d .noFormat
  | .mismatch => (s.unmount d).setOutcome d .geometryMismatch
  | .failed f => (s.unmount d).setOutcome d f.outcome

/-- A STRANDED slot becomes RESIDENT at a successful RECLAIM (R58, R139). -/
def Slot.reclaimed (t : Slot) (now : Nat) : Slot :=
  { t with state := .resident, dirtySince := if t.dirty then some now else none }

/-- The STRANDED slots of a drive, ascending. -/
def State.strandedSlots (s : State) (d : DriveNo) : List Nat :=
  s.slotsWhere (fun _ t => t.onDrive d && decide (t.state = .stranded))

/-- A successful RECLAIM (R58, R134, R143). -/
def State.reclaimSlots (s : State) (d : DriveNo) (cls : OpClass) : State :=
  let ks := s.strandedSlots d
  let s1 := ks.foldl (fun t k => t.updSlot k (fun x => x.reclaimed s.now.ms)) s
  ks.foldl (fun t k => t.requestWriteFor k .reclaim cls) s1

/-- The end of a RECLAIM (R134). -/
def State.reclaimEnd (s : State) (d : DriveNo) (r : ProbeResult) : State :=
  match r with
  | .found _ stamp =>
    if stamp.isSome ∧ stamp = s.records[d].stamp then
      (s.reclaimSlots d (s.requestClass d)).endRequest d .mounted .done
    else s.endRequest d .lost .stampMismatch
  | .noFormat => s.endRequest d .lost .noFormat
  | .mismatch => s.endRequest d .lost .geometryMismatch
  | .failed f => s.endRequest d .lost f.outcome

/-- A PROBE's result reaching the Mount Controller (R106). -/
def State.probeEnded (s : State) (d : DriveNo) (r : ProbeResult) : State :=
  match s.volume d with
  | .mounting => s.mountEnd d r
  | .reclaiming => s.reclaimEnd d r
  | _ => s

/-! ### Dropping operations (R89) -/

/-- The operations of a drive that a condition names are dropped; a pass of a dropped operation is stopped and frees the
channel, a step under way goes on (R89, R93, R110). -/
def State.dropOps (s : State) (d : DriveNo) (q : Op → Bool) : State :=
  let gone := s.drives[d].queue.any (fun o => q o && o.isCurrent)
  let s1 := s.updDrive d (fun v =>
    { v with
      queue := v.queue.filter (fun o => !q o)
      move := if gone then .idle else v.move
      moved := if gone then false else v.moved })
  if s.drives[d].queue.any (fun o => q o && decide (o.phase = .transferring)) then { s1 with pass := none } else s1

/-- The slots of the FILLs of a drive that a condition names, ascending: slots that one event frees join the free list so
(R46). -/
def State.fillSlots (s : State) (d : DriveNo) (q : Op → Bool) : List Nat :=
  let ks := s.drives[d].queue.filterMap (fun o => if q o && o.work.isFill then o.work.slot? else none)
  s.slotsWhere (fun k _ => ks.contains k)

/-- The drives in order. -/
def driveNos : List DriveNo := [0, 1, 2, 3]

/-! ### DISCARD (R135) -/

/-- A WRITE of the drive holds the channel with an active sector (R89, R135). -/
def State.writingField (s : State) (d : DriveNo) : Bool :=
  match s.pass with
  | some p => decide (p.drive = d) && (match p.target with
    | .track k _ _ _ _ _ => (s.slot k).active.isSome
    | .diskette _ => false)
  | none => false

/-- A DISCARD is carried out: operations dropped, slots freed, waiters failed, the volume UNMOUNTED (R58, R72, R135). -/
def State.discardNow (s : State) (d : DriveNo) : State :=
  let freed := s.slotsOf d
  let s1 := (s.dropOps d (fun _ => true)).freeSlots freed
  (((s1.failDriveWaiters d .noVolume).unmount d).setOutcome d .done).released freed (some d)

/-- A pending discard of the drive is carried out (R135). -/
def State.discardIfPending (s : State) (d : DriveNo) : State :=
  if s.records[d].pendingDiscard then s.discardNow d else s

/-! ### RELEASE (R133) -/

/-- A FILL that the end of phase 1 drops: QUEUED, SEEKING or POSITIONED (R89, R133). -/
def Op.droppedByRelease (o : Op) : Bool := o.work.isFill && decide (o.phase ≠ .transferring)

/-- A RELEASE completes (R58, R133). -/
def State.releaseDone (s : State) (d : DriveNo) : State :=
  let freed := s.slotsOf d
  (((s.freeSlots freed).unmount d).setOutcome d .done).released freed none

/-- Phase 2 of a RELEASE begins: its FILLs are dropped and their slots freed by R51. Where that leaves the drive without an
operation the release completes at this very event, which frees them with the others (R46, R133; log 37). -/
def State.releasePhase2 (s : State) (d : DriveNo) : State :=
  let s1 := (s.updRecord d (fun m => { m with progress := m.progress.map (fun p => { p with phase2 := true }) })).dropOps d
    Op.droppedByRelease
  if s1.drives[d].queue = [] then s1.releaseDone d
  else
    let dropped := s.fillSlots d Op.droppedByRelease
    let freed := dropped.filter (fun k => decide ((s.slot k).state = .filling) && !(s.slot k).dirty)
    (dropped.foldl State.fillStopped s1).released freed none

/-! ### Media removal (R57, R121, R138) -/

/-- The slots of a removed diskette: freed without a DIRTY sector, stranded with one (R57). -/
def Slot.strandedByRemoval (t : Slot) : Bool :=
  match t.state with
  | .filling => t.dirty
  | .resident => t.dirty
  | .writing => true
  | _ => false

def Slot.freedByRemoval (t : Slot) : Bool :=
  match t.state with
  | .filling => !t.dirty
  | .resident => !t.dirty
  | _ => false

/-- The slots that a removal strands, and those that it frees, ascending. -/
def State.removalStrands (s : State) (d : DriveNo) : List Nat := s.slotsWhere (fun _ t => t.onDrive d && t.strandedByRemoval)

def State.removalFrees (s : State) (d : DriveNo) : List Nat := s.slotsWhere (fun _ t => t.onDrive d && t.freedByRemoval)

/-- The slots of a removed diskette by their states (R57). -/
def State.removeSlots (s : State) (d : DriveNo) : State :=
  ((s.removalStrands d).foldl State.strandSlot s).freeSlots (s.removalFrees d)

/-- The volume after a removal: LOST if a slot of the drive is STRANDED, UNMOUNTED otherwise, with the outcome
MEDIA_REMOVED; a request in progress and a pending discard end (R121, R138). -/
def State.removeVolume (s : State) (d : DriveNo) : State :=
  let s1 := if s.strandedSlots d = [] then s.unmount d else
    (s.endRequest d .lost .mediaRemoved).updRecord d (fun m => { m with pendingDiscard := false })
  s1.setOutcome d .mediaRemoved

/-- Steps 3 to 5 of a media removal, the drive's operations having been dropped: the slots, the volume, the waiters, and the
release event of the slots freed (R121). -/
def State.removeDiskette (s : State) (d : DriveNo) : State :=
  (((s.removeSlots d).removeVolume d).failDriveWaiters d .volumeLost).released (s.removalFrees d) (some d)

/-! ### Reset-flush (R156, R157) -/

/-- A WRITE is queued or current on some drive (R157). -/
def State.writesLeft (s : State) : Bool := s.drives.toList.any (fun v => v.queue.any (fun o => o.work.isWrite))

/-- The slots left DIRTY at the end of the drain, on volumes not LOST (R157). -/
def State.leftDirty (s : State) : List Nat :=
  s.slotsWhere (fun _ t => t.dirty && decide (t.state ≠ .free) && decide (t.state ≠ .stranded) &&
    (match t.key with
    | some key => decide (s.volume key.drive ≠ .lost)
    | none => false))

/-- A volume at the end of the drain: LOST if it has a STRANDED slot, UNMOUNTED otherwise (R157). -/
def State.drainVolume (s : State) (d : DriveNo) : State :=
  if s.strandedSlots d = [] then s.unmount d else s.updRecord d (fun m => { m with state := .lost })

/-- The end of the drain (R157); the rewrite begins (R158). -/
def State.drainEnd (s : State) : State :=
  let s1 := s.leftDirty.foldl State.strandSlot s
  let freed := s1.slotsWhere (fun _ t => decide (t.state ≠ .free) && decide (t.state ≠ .stranded))
  { (driveNos.foldl State.drainVolume (s1.freeSlots freed)).released freed none with phase := .rewriting 2 }

end Sys2Proof.Machine
end

