-- ==== Sys2Proof/Machine/Passes.lean ====
section
/-! DEFINITION. The channel passes: how a FILL, WRITE or PROBE pass begins, goes on and ends, and how operations fail. -/

namespace Sys2Proof.Machine

/-- A report of a pass applies to a slot whose key and generation match it and whose state is the one the report belongs
to (R38). -/
def State.applies (s : State) (k : Nat) (key : Key) (gen : Byte) (st : SlotState) : Bool :=
  let t := s.slot k
  decide (k < s.slots.length) && decide (t.state = st) && decide (t.key = some key) && decide (t.generation = gen)

/-- An operation ceases to exist and, with it, its pass: the channel is free (R86). -/
def State.endOp (s : State) (d : DriveNo) (slot : Option Nat) : State :=
  { (s.removeOp d slot).updDrive d (fun v => { v with move := .idle, moved := false }) with pass := none }

/-- The positions of a slot's sectors in a state, in logical order. -/
def Slot.positions (t : Slot) (st : SectorState) : List Nat :=
  (List.range t.sectors.length).filter (fun p => decide ((t.sector p).state = st))

/-! ### Failures (R83, R109) -/

/-- A failing WRITE's slot (R55, R83): sectors in flight become DIRTY, the slot RESIDENT, the write-failed flag set. -/
def Slot.writeFails (t : Slot) (now : Nat) : Slot :=
  let u := t.mapSectors Sector.undo
  { u with
    state := .resident
    dirtySince := if u.dirty then some now else none
    writeFailed := true
    yields := 0
    active := none }

/-- A failing WRITE reaches its slot while the slot is RESIDENT or WRITING. -/
def State.failWrite (s : State) (k : Nat) : State :=
  if (s.slot k).state = .resident ∨ (s.slot k).state = .writing then s.updSlot k (fun t => t.writeFails s.now.ms) else s

/-- The current operation of a drive fails, in its seek (R83) or in its pass (R109): the motor stops (R118), the drive
fault is reported, and the requester of the operation is told. -/
def State.opFailed (s : State) (d : DriveNo) (f : DriveFailure) : State :=
  match s.drives[d].currentOp with
  | none => s
  | some o =>
    let s0 := s.updDrive d (fun v => v.motorStop)
    let s1 := if o.phase = .transferring then s0.endOp d o.work.slot? else s0.removeOp d o.work.slot?
    let s2 := s1.driveFault d f.code o.cylinder o.head none
    match o.work with
    | .fill k _ =>
      (s2.failFillWaiters { drive := d, cylinder := o.cylinder, head := o.head } f).fillStoppedFully d k
    | .write k _ evict => ((s2.failWrite k).afterWrite d k evict .failed).discardIfPending d
    | .probe => s2.probeEnded d (.failed f)

/-! ### The FILL pass (R97, R98) -/

/-- The fill-end report at the Track Directory (R50, R139). -/
def Slot.fillEnds (t : Slot) (now : Nat) : Slot :=
  let u := t.mapSectors Sector.damage
  { u with state := .resident, dirtySince := if u.dirty then some now else none }

/-- A FILL pass ends: the report, the fault for the first damaged sector, the end of the operation (R50, R86, R98). -/
def State.fillEnd (s : State) (p : Pass) : State :=
  match p.target, p.round with
  | .track k key gen ids size _, .reading seen =>
    let s1 := if s.applies k key gen .filling then
        let lost := (s.slot k).positions .absent
        let s0 := (s.fillAbsent k (sectorSize size) (fun q => !seen.contains q)).updSlot k (fun t => t.fillEnds s.now.ms)
        match lost with
        | [] => s0
        | q :: _ => s0.driveFault p.drive (if seen.contains q then .dataCrc else .notFound) p.cylinder p.head ids[q]?
      else s
    (s1.endOp p.drive (some k)).afterFill p.drive k
  | _, _ => s

/-! ### The WRITE pass (R99 to R102) -/

/-- A pass start refused for the notch (R52, R99). -/
def State.writeRefused (s : State) (d : DriveNo) (o : Op) (k : Nat) (evict : Bool) : State :=
  let s1 := s.updSlot k (fun t => { t with writeFailed := true, yields := 0 })
  ((s1.endOp d (some k)).driveFault d .writeProtected o.cylinder o.head none).afterWrite d k evict .refused

/-- DIRTY sectors are taken into the pass (R52). -/
def Slot.passStarts (t : Slot) : Slot :=
  { (t.mapSectors (fun e => if e.state = .dirty then { e with state := .outbound } else e)) with
    state := .writing
    dirtySince := none }

/-- A pass record formed at a grant, its counters at 0 (R92). -/
def State.passRecord (s : State) (d : DriveNo) (o : Op) (target : Target) (round : Round) : Pass where
  drive := d
  cylinder := o.cylinder
  head := o.head
  target := target
  retry := s.records[d].latched.retry.toNat
  round := round
  pulses := 0
  recals := 0
  rewrites := 0
  recovering := false
  awaited := none

/-- What a FILL or WRITE pass works on: the slot with its key and generation, and the ID list of the target track (R22,
R85). -/
def State.trackTarget (s : State) (d : DriveNo) (o : Op) (k : Nat) (gen : Byte) : Target :=
  let key : Key := { drive := d, cylinder := o.cylinder, head := o.head }
  match s.geometry[d] with
  | some g => .track k key gen (g.idList o.cylinder) g.size s.records[d].latched.verify
  | none => .track k key gen [] 0 s.records[d].latched.verify

/-- A WRITE pass begins: the notch check, then the pass-start report (R52, R99). -/
def State.beginWrite (s : State) (d : DriveNo) (o : Op) (k : Nat) (gen : Byte) (evict : Bool) : State :=
  if s.drives[d].notch then s.writeRefused d o k evict
  else if (s.slot k).state = .resident ∧ (s.slot k).dirty = true then
    let s1 := s.updSlot k Slot.passStarts
    { s1 with pass := some (s.passRecord d o (s.trackTarget d o k gen) (.writing ((s1.slot k).positions .outbound) [])) }
  else
    ((s.updSlot k (fun t => { t with yields := 0 })).endOp d (some k)).afterWrite d k evict .empty

/-- The pass-end report at the Track Directory (R55). -/
def Slot.passEnds (t : Slot) (now : Nat) : Slot :=
  let u := t.mapSectors Sector.undo
  { u with state := .resident, dirtySince := if u.dirty then some now else none, yields := 0, active := none }

/-- The eviction mark of the drive's WRITE of a slot (R74). -/
def State.evictMark (s : State) (d : DriveNo) (k : Nat) : Bool :=
  match s.drives[d].opOf (some k) with
  | some o => match o.work with
    | .write _ _ e => e
    | _ => false
  | none => false

/-- A WRITE pass ends (R55, R86, R102). -/
def State.writeEnd (s : State) (p : Pass) : State :=
  match p.target with
  | .track k key gen _ _ _ =>
    let s1 := if s.applies k key gen .writing then s.updSlot k (fun t => t.passEnds s.now.ms) else s
    (s1.endOp p.drive (some k)).afterWrite p.drive k (s.evictMark p.drive k) .finished
  | .diskette _ => s

/-- The write-failure report: the sectors named become DIRTY if they are WRITTEN or OUTBOUND, and the write-failed flag is
set (R54). -/
def Slot.sectorsFail (t : Slot) (ps : List Nat) : Slot :=
  { (ps.foldl (fun u q => u.setSector q Sector.undo) t) with writeFailed := true }

/-- A write-failure report with its fault, for the lowest logical position named (R54, R100, R102). -/
def State.sectorsFail (s : State) (p : Pass) (c : FaultCode) (ps : List Nat) : State :=
  match p.target with
  | .track k key gen ids _ _ =>
    let s1 := if s.applies k key gen .writing then s.updSlot k (fun t => t.sectorsFail ps) else s
    s1.driveFault p.drive c p.cylinder p.head (ids[ps.foldl min (ps.headD 0)]?)
  | .diskette _ => s

/-- The pass record in a new round, its index-pulse counter at 0. -/
def Pass.inRound (p : Pass) (r : Round) : Pass := { p with round := r, pulses := 0, awaited := none }

/-- A write round ends with its write list empty, or with the sectors left in it not found (R100). -/
def State.writeRoundEnd (s : State) (p : Pass) : State :=
  match p.target, p.round with
  | .track _ _ _ _ _ verify, .writing todo written =>
    let s1 := if todo = [] then s else s.sectorsFail p .notFound todo
    if verify ∧ written ≠ [] then { s1 with pass := some (p.inRound (.verifying written [])) } else s1.writeEnd p
  | _, _ => s

/-- A sector with a bad verify that is still DIRTY is taken into the pass again (R54, R102). -/
def Slot.rewrites (t : Slot) (ps : List Nat) : Slot :=
  ps.foldl (fun u q => u.setSector q (fun e => if e.state = .dirty then { e with state := .outbound } else e)) t

/-- A verify round ends (R102). -/
def State.verifyRoundEnd (s : State) (p : Pass) (bad : List Nat) : State :=
  match p.target with
  | .diskette _ => s
  | .track k key gen _ _ _ =>
    if bad = [] then s.writeEnd p
    else if p.rewrites = 0 then
      let s1 := if s.applies k key gen .writing then s.updSlot k (fun t => t.rewrites bad) else s
      let todo := (s1.slot k).positions .outbound
      let p1 := { p.inRound (.writing todo []) with rewrites := 1 }
      if todo = [] then ({ s1 with pass := some p1 } : State).writeRoundEnd p1 else { s1 with pass := some p1 }
    else (s.sectorsFail p .verifyFailed bad).writeEnd p

/-- A verify result at the Track Directory (R54). -/
def Sector.verified (e : Sector) (good : Bool) : Sector :=
  if e.state = .written then { e with state := if good then .valid else .dirty } else e

/-- A verify result for a position, which then leaves the verify list; the round ends with the list (R101). A bad result is
counted also for a sector that a bus write had already made DIRTY (R102; log 31). -/
def State.verifyResult (s : State) (p : Pass) (q : Nat) (good : Bool) : State :=
  match p.target, p.round with
  | .track k key gen _ _ _, .verifying todo bad =>
    let s1 := if s.applies k key gen .writing then s.updSlot k (fun t => t.setSector q (fun e => e.verified good)) else s
    let todo1 := todo.erase q
    let bad1 := if good then bad else bad ++ [q]
    let p1 := { p with round := .verifying todo1 bad1, awaited := none }
    let s2 := { s1 with pass := some p1 }
    if todo1 = [] then s2.verifyRoundEnd p1 bad1 else s2
  | _, _ => s

/-- The second index pulse of a verify round: a bad result for each sector left (R101). -/
def State.verifyTimeout (s : State) (p : Pass) : State :=
  match p.target, p.round with
  | .track k key gen _ _ _, .verifying todo bad =>
    let s1 := if s.applies k key gen .writing then
        s.updSlot k (fun t => todo.foldl (fun u q => u.setSector q (fun e => e.verified false)) t)
      else s
    s1.verifyRoundEnd p (bad ++ todo)
  | _, _ => s

/-! ### The PROBE (R103 to R106) -/

/-- The size code that a PROBE looks for: the latched one for a MOUNT (AUTO when absent), the effective one for a RECLAIM
(R129, R134). -/
def State.probeAsked (s : State) (d : DriveNo) : Option (Fin 4) :=
  if s.volume d = .reclaiming then s.geometry[d].map (fun g => g.size) else s.records[d].latched.sizeCode

/-- A PROBE ends with its result (R86, R106). -/
def State.probeEnd (s : State) (p : Pass) (r : ProbeResult) : State := (s.endOp p.drive none).probeEnded p.drive r

/-! ### The grant (R84, R85) -/

/-- The pass of a granted operation begins (R85, R97, R99, R103). -/
def State.beginPass (s : State) (d : DriveNo) (o : Op) : State :=
  match o.work with
  | .fill k gen =>
    let p := s.passRecord d o (s.trackTarget d o k gen) (.reading [])
    let s1 := { s with pass := some p }
    if (s.slot k).holds .absent then s1 else s1.fillEnd p
  | .write k gen evict => s.beginWrite d o k gen evict
  | .probe => { s with pass := some (s.passRecord d o (.diskette (s.probeAsked d)) (.searching 0)) }

/-- The channel is given to an operation of a drive, which becomes TRANSFERRING (R84). -/
def State.giveChannel (s : State) (d : DriveNo) (o : Op) : State :=
  s.updOp d o.work.slot? (fun x => { x with phase := .transferring })

/-- What follows for the operation that has been given the channel: its pass begins, or READY false fails it (R85, R108). -/
def State.startPass (s : State) (d : DriveNo) (o : Op) : State :=
  if s.pins.ready.getLsbD d.val then s.beginPass d o else s.opFailed d .notReady

/-- The drive is granted the channel (R84, R85, R108). -/
def State.grantChannel (s : State) (d : DriveNo) (o : Op) : State := (s.giveChannel d o).startPass d o

end Sys2Proof.Machine
end

