-- ==== Sys2Proof/Machine/Schedule.lean ====
section
/-! DEFINITION. The end of an event: requests that complete, the end of the drain, the choice of each drive's next
operation, the channel arbiter; and the recovery and seek stages that follow a step or a settle. -/

namespace Sys2Proof.Machine

/-! ### What an event leaves to be done (log 15) -/

/-- A drive whose freeze or release goes on at this event: FREEZING with dirty count 0 (R132), RELEASING in phase 1 with
dirty count 0, or in phase 2 with no operation left (R133). -/
def State.volumeStep (s : State) (d : DriveNo) : Option State :=
  match s.volume d with
  | .freezing => if s.dirtyCount d = 0 then some (s.endRequest d .frozen .done) else none
  | .releasing =>
    if s.writingOut d then (if s.dirtyCount d = 0 then some (s.releasePhase2 d) else none)
    else if s.drives[d].queue = [] then some (s.releaseDone d) else none
  | _ => none

/-- The drain ends when no WRITE is left (R157). -/
def State.drainStep (s : State) : Option State :=
  if s.phase = .draining ∧ s.writesLeft = false then some s.drainEnd else none

/-- A drive without a current operation is given one; NO_MEDIA fails it at stage 1 of its seek (R81, R82, R83). -/
def State.selectStep (s : State) (d : DriveNo) : Option State :=
  let v := s.drives[d]
  match v.currentOp with
  | some _ => none
  | none =>
    match v.choice with
    | none => none
    | some (o, dir) =>
      let s1 := s.choose d o dir
      if v.media = .noMedia then some (s1.opFailed d .notReady) else some (s1.motorStage d)

/-- A POSITIONED operation with its positioned time. -/
def Drive.positionedOp (v : Drive) : Option (Op × Stamp) :=
  match v.currentOp with
  | some o => match o.phase with
    | .positioned t => some (o, t)
    | _ => none
  | none => none

/-- The arbiter prefers the first to the second: higher class, then earlier positioned time; the drive order of the list
decides the rest (R84). -/
def arbiterPrefers (a b : DriveNo × Op × Stamp) : Bool :=
  if a.2.1.cls = b.2.1.cls then decide (a.2.2.seq ≤ b.2.2.seq) else decide (b.2.1.cls.rank < a.2.1.cls.rank)

/-- The POSITIONED operation that the arbiter chooses (R84). -/
def State.arbiterChoice (s : State) : Option (DriveNo × Op × Stamp) :=
  (driveNos.filterMap (fun d => s.drives[d].positionedOp.map (fun x => (d, x)))).foldl
    (fun best x => match best with
      | none => some x
      | some b => if arbiterPrefers b x then some b else some x)
    none

/-- Some operation is TRANSFERRING: the channel is held (R84). -/
def State.channelHeld (s : State) : Bool :=
  s.drives.toList.any (fun v => v.queue.any (fun o => decide (o.phase = .transferring)))

/-- The free channel is granted (R84). -/
def State.arbiterStep (s : State) : Option State :=
  if s.channelHeld then none else s.arbiterChoice.map (fun x => s.grantChannel x.1 x.2.1)

/-- The first of the things an event leaves to be done: completions, the drain's end, choices drive by drive, the arbiter
(R86: the choices and their seeks before the arbiter; log 15). -/
def State.nextStep (s : State) : Option State :=
  (driveNos.findSome? s.volumeStep) <|> s.drainStep <|> (driveNos.findSome? s.selectStep) <|> s.arbiterStep

/-- Everything an event leaves to be done (log 22). -/
def State.settleLoop : Nat → State → State
  | 0, s => s
  | n + 1, s =>
    match s.nextStep with
    | some t => State.settleLoop n t
    | none => s

/-- The end of an event that touches drive work: what is left to be done, then the notices to the Media Monitor (R116) and
the index watches (R107). -/
def State.schedule (s : State) : State := (State.settleLoop Config.eventFuel s).notices

/-! ### Rounds that end by count (R96, R98, R100, R101, R103, R104) -/

/-- The end of a round whose index-pulse counter has reached its limit; an active sector is let end first (log 13). A
search is ended by its revolutions alone (R103). -/
def State.roundCheck (s : State) (p : Pass) : State :=
  match p.round with
  | .reading _ => if p.retry + 1 ≤ p.pulses then s.fillEnd p else s
  | .writing _ _ => if p.retry + 1 ≤ p.pulses ∧ s.writingField p.drive = false then s.writeRoundEnd p else s
  | .verifying _ _ => if 2 ≤ p.pulses then s.verifyTimeout p else s
  | .label size => if p.retry + 1 ≤ p.pulses then s.probeEnd p (.found size none) else s
  | .searching _ => s

/-- A search revolution ends at an index pulse: AUTO searches in MFM and then in FM, an explicit size code in one
revolution (R103). -/
def State.searchPulse (s : State) (p : Pass) (revolution : Nat) : State :=
  match p.target with
  | .diskette none =>
    if revolution < 2 then { s with pass := some { p with round := .searching (revolution + 1) } }
    else s.probeEnd p .noFormat
  | .diskette (some _) =>
    if revolution < 1 then { s with pass := some { p with round := .searching (revolution + 1) } }
    else s.probeEnd p .noFormat
  | .track _ _ _ _ _ _ => s

/-- An index pulse of the pass's drive (R96, R107). -/
def State.passPulse (s : State) (p0 : Pass) : State :=
  let p := { p0 with pulses := p0.pulses + 1 }
  let s1 := { s with pass := some p }
  if p.recovering then s1
  else match p.round with
    | .searching n => s1.searchPulse p n
    | _ => s1.roundCheck p

/-- The recovery of a wrong-cylinder field begins, or fails the pass at the third (R96). -/
def State.beginRecovery (s : State) (p : Pass) : State :=
  if Config.recoveryLimit ≤ p.recals then s.opFailed p.drive .seekFault
  else
    let s1 := { s with pass := some { p with recals := p.recals + 1, recovering := true, awaited := none } }
    (s1.updDrive p.drive (fun v => { v with moved := true })).beginRecal p.drive

/-- The recovery ends: the head is selected and the round resumes, or ends if its count has been reached (R96). -/
def State.recoveryEnd (s : State) (p0 : Pass) : State :=
  let p := { p0 with recovering := false }
  let s1 := { s with pass := some p }
  (s1.updDrive p.drive (fun v => { v with side := p.head, move := .idle, moved := false })).roundCheck p

/-- A settle has ended: the seek's operation becomes POSITIONED (R82), or the recovery ends (R96). -/
def State.settled (s : State) (d : DriveNo) : State :=
  match s.pass with
  | some p => if p.drive = d then (if p.recovering then s.recoveryEnd p else s) else s.position d
  | none => s.position d

/-- The cylinder reckoned after a step, not below 0 nor above 76 (R93, R94; log 19). -/
def reckon (head : Option Nat) (inward : Bool) : Option Nat :=
  head.map (fun h => if inward then min (h + 1) (Config.cylinders - 1) else h - 1)

/-- A step completes: the position is reported, and the recalibration, the steps or the waiting seek go on (R93, R94). -/
def State.stepDone (s : State) (d : DriveNo) (t : StepUnderWay) : State :=
  let s1 := s.updDrive d (fun v => { v with step := none, head := reckon v.head t.inward })
  match s.drives[d].move with
  | .recalibrating n =>
    if s.pins.track0.getLsbD d.val then (s1.updDrive d (fun v => { v with head := some 0 })).stepStage d
    else if Config.recalibrationSteps ≤ n then (s1.updDrive d (fun v => { v with head := none })).opFailed d .seekFault
    else s1.giveStep d false (.recalibrating (n + 1))
  | .stepping => s1.stepStage d
  | .waitStep => s1.motorStage d
  | _ => s1

end Sys2Proof.Machine
end

