-- ==== Sys2Proof/Machine/Aperture.lean ====
section
/-! DEFINITION. Aperture accesses: the checks of Window Translation, the Waiter Table, service by sector state. -/

namespace Sys2Proof.Machine

/-- An access that has been decomposed (R19, R33). -/
structure Access where
  drive : DriveNo
  place : Place
  requester : Requester
  cls : OpClass
  /-- The bytes to store; absent for a read. -/
  lanes : Option Lanes
  deriving DecidableEq, Repr

def Access.key (a : Access) : Key := { drive := a.drive, cylinder := a.place.cylinder, head := a.place.head }

def Access.write (a : Access) : Bool := a.lanes.isSome

/-- A fault report with the position of an access (R34). -/
def Access.report (a : Access) (c : FaultCode) : Report where
  code := c
  requester := some a.requester
  cylinder := some a.place.cylinder
  head := some a.place.head
  sectorId := some a.place.sectorId

/-! ### Answers (R63) -/

/-- A final answer: DONE or FAULT empties the requester's entry (R63). -/
def State.final (s : State) (r : Requester) (ans : Answer) : State := (s.setWaiter r .empty).answered ans

/-- An access refused with FAULT, reported to the drive's record (R26, R33, R34). -/
def State.refuse (s : State) (a : Access) (c : FaultCode) : State :=
  (s.report a.drive (a.report c)).final a.requester .fault

/-- A write dropped with DONE, PROTECTED reported (R30, R31). -/
def State.dropWrite (s : State) (a : Access) : State :=
  (s.report a.drive (a.report .writeDropped)).final a.requester (.done none)

/-! ### Held accesses (R62, R66, R68 to R70) -/

/-- The entry that records a held access: a match keeps the wait start and the exceeded marker (R62). -/
def Access.entry (a : Access) (h : Hold) (e : WaiterEntry) (now : Stamp) : Waiter :=
  match e.matching a.key a.place.sector with
  | some w =>
    { key := a.key, sector := a.place.sector, write := a.write, cls := a.cls, start := w.start, status := .hold h,
      exceeded := w.exceeded }
  | none =>
    { key := a.key, sector := a.place.sector, write := a.write, cls := a.cls, start := now, status := .hold h,
      exceeded := false }

/-- A recording ON_FILL raises the class of the key's FILL (R66, R78). -/
def State.raiseFill (s : State) (key : Key) (cls : OpClass) (h : Hold) : State :=
  if h = .onFill then
    match s.lookup key with
    | some k => s.updOp key.drive (some k) (fun o => if o.work.isFill then { o with cls := o.cls.max cls } else o)
    | none => s
  else s

/-- The entry whose limit has run out and which the access matches (R68). -/
def WaiterEntry.expiredFor (e : WaiterEntry) (key : Key) (p : Nat) : Option Hold :=
  match e.matching key p with
  | some w => match w.status with
    | .expired h => some h
    | _ => none
  | none => none

/-- The timeout action is GIVE_UP (R149). -/
def Settings.givesUp (t : Settings) : Bool := decide (t.timeoutAction ≠ 0)

/-- An access held: recorded and answered RETRY (R62), or, for an expired entry, by the timeout action (R68): HOLD records
WAIT_EXCEEDED once and holds it on (R69), GIVE_UP answers DONE (R70). -/
def State.hold (s : State) (a : Access) (h : Hold) : State :=
  let e : WaiterEntry := s.waiters[a.requester]
  let w := a.entry h e s.now
  match e.expiredFor a.key a.place.sector with
  | none => ((s.setWaiter a.requester (.wait w)).raiseFill a.key a.cls h).answered .retry
  | some _ =>
    let s1 := s.report a.drive (a.report .waitExceeded)
    if s.settings.givesUp then s1.final a.requester (doneAnswer a.write 0xFFFF#16)
    else ((s1.setWaiter a.requester (.wait { w with exceeded := true })).raiseFill a.key a.cls h).answered .retry

/-! ### Service by sector state (R39 to R42) -/

/-- The word at the slot address of an access (R25). -/
def State.slotWord (s : State) (k : Nat) (a : Access) : Word :=
  Memory.readWord s.mem (s.slotAddr k (a.place.offset - a.place.offset % 2))

/-- A read served from a slot; of a DAMAGED sector, READ_DAMAGED is reported while the marker is set (R39, R40, R47). -/
def State.serveRead (s : State) (k : Nat) (a : Access) : State :=
  let e := (s.slot k).sector a.place.sector
  let s1 := if e.state = .damaged ∧ e.report = true then
      (s.report a.drive (a.report .readDamaged)).updSlot k (fun t => t.setSector a.place.sector (fun x => { x with report := false }))
    else s
  (s1.touch k).final a.requester (.done (some (s.slotWord k a)))

/-- A sector's state after an accepted write (R41). -/
def Sector.writtenByBus (e : Sector) : Sector :=
  match e.state with
  | .outbound => e
  | .absent => e
  | _ => { state := .dirty, report := false }

/-- A slot after an accepted write: the sector, the write-failed flag (R141), the dirty-since time (R139). -/
def Slot.writtenByBus (t : Slot) (p : Nat) (now : Nat) : Slot :=
  let u := t.setSector p Sector.writtenByBus
  { u with
    writeFailed := false
    dirtySince := if t.state = .resident ∧ t.dirty = false then some now else t.dirtySince }

/-- A write accepted into a slot (R41), which may complete the conditions of an age write-back (R140). -/
def State.acceptWrite (s : State) (k : Nat) (a : Access) (l : Lanes) : State :=
  let base := s.slotAddr k (a.place.offset - a.place.offset % 2)
  let s1 := { s with mem := Memory.storeLanes s.mem base l }
  let s2 := ((s1.updSlot k (fun t => t.writtenByBus a.place.sector s.now.ms)).touch k).ageCheck k
  (if s2.link k = s1.link k then s2 else s2.schedule).final a.requester (.done none)

/-- A hit, answered by the sector state (R39, R41). -/
def State.hit (s : State) (k : Nat) (a : Access) : State :=
  let st := ((s.slot k).sector a.place.sector).state
  if st = .absent then s.hold a .onFill
  else match a.lanes with
    | none => s.serveRead k a
    | some l =>
      if (s.slot k).active = some a.place.sector then s.hold a .onActive else s.acceptWrite k a l

/-! ### Misses (R43 to R45) -/

/-- A miss that runs the victim rule (R43). At its step 4 SLOT_STARVED is reported before what an expired reissue reports
(R45, R69; log 32). -/
def State.miss (s : State) (a : Access) : State :=
  match s.victim with
  | some k => ((s.assign k a.key a.cls).hold a .onFill).schedule
  | none => match s.evictionTarget false with
    | some k => ((s.requestWrite k .evict a.cls).hold a .slotWait).schedule
    | none => (s.report a.drive (a.report .slotStarved)).hold a .slotWait

/-- The requester's entry keeps a miss of this key a slot-wait, without the victim rule: its status is SLOT_WAIT on the key
(R45; log 16), or it has expired so held on this key and sector (R68). -/
def WaiterEntry.staysSlotWait (e : WaiterEntry) (key : Key) (p : Nat) : Bool :=
  (match e with
    | .wait w => decide (w.key = key) && decide (w.status = .hold .slotWait)
    | _ => false) ||
  decide (e.expiredFor key p = some .slotWait)

/-- The slot that an access finds: in LOST and RECLAIMING a STRANDED one alone (R33, R38). -/
def State.found (s : State) (a : Access) : Option Nat :=
  match s.lookup a.key with
  | some k => if s.volumeLost a.drive ∧ (s.slot k).state ≠ .stranded then none else some k
  | none => none

/-- The Track Directory's answer (R33, R38, R45). -/
def State.directory (s : State) (a : Access) : State :=
  match s.found a with
  | some k => s.hit k a
  | none =>
    if s.volumeLost a.drive then s.refuse a .volumeLost
    else if s.volume a.drive = .releasing then s.refuse a .noVolume
    else if (s.waiters[a.requester] : WaiterEntry).staysSlotWait a.key a.place.sector then s.hold a .slotWait
    else s.miss a

/-- The code with which an entry has failed, for an access that matches it by key and sector (R64, R65). -/
def WaiterEntry.failedFor (e : WaiterEntry) (key : Key) (p : Nat) : Option WaitFailure :=
  match e with
  | .wait w =>
    if w.key = key ∧ w.sector = p then
      match w.status with
      | .failed c => some c
      | _ => none
    else none
  | _ => none

/-- The hand-off: a matching FAILED entry answers FAULT (R65), otherwise the Track Directory (R33, R64). -/
def State.handOff (s : State) (a : Access) : State :=
  match (s.waiters[a.requester] : WaiterEntry).failedFor a.key a.place.sector with
  | some (.drive _) => s.final a.requester .fault
  | some c => s.refuse a c.code
  | none => s.directory a

/-! ### The checks (R26 to R32) -/

/-- Writes to the volume are held (R32). -/
def VolumeState.holdsWrites (v : VolumeState) : Bool :=
  match v with
  | .freezing | .frozen | .releasing => true
  | _ => false

/-- Steps 4 to 7 for a write: permission (R30), guard (R31), write hold (R32), hand-off (R33). -/
def State.checkWrite (s : State) (a : Access) : State :=
  let m := s.records[a.drive]
  let v := s.drives[a.drive]
  if m.host.writeAllow = false ∨ (v.media ≠ .noMedia ∧ v.notch = true) then s.dropWrite a
  else if m.host.guards a.place.cylinder ∧ m.host.guardExempt.getLsbD a.requester.val = false then s.dropWrite a
  else if m.state.holdsWrites then s.hold a .writeHold
  else s.handOff a

/-- A refusal before the decomposition, with the position absent (R27, R28, R29, R34). -/
def State.refuseEarly (s : State) (d : DriveNo) (r : Requester) (c : FaultCode) : State :=
  (s.report d { code := c, requester := some r, cylinder := none, head := none, sectorId := none }).final r .fault

/-- The window's drive serves a volume (R28). -/
def State.servesVolume (s : State) (d : DriveNo) : Bool :=
  decide (d.val < s.straps.drives) && decide (s.volume d ≠ .unmounted) && decide (s.volume d ≠ .mounting)

/-- The checks of Window Translation in their order, for the drive and volume offset of a cycle (R26). -/
def State.translate (s : State) (d : DriveNo) (v : Nat) (r : Requester) (lanes : Option Lanes) : State :=
  match s.classOf r with
  | none => s.refuseEarly d r .barred
  | some cls =>
    if s.servesVolume d = false then s.refuseEarly d r .noVolume
    else match s.geometry[d] with
      | none => s.refuseEarly d r .noVolume
      | some g =>
        if g.volumeSize ≤ v then s.refuseEarly d r .beyondVolume
        else
          let a : Access := { drive := d, place := g.place v, requester := r, cls := cls, lanes := lanes }
          if a.write then s.checkWrite a else s.handOff a

/-- An aperture cycle: held off during the default writing and reset-flush (R12, R73), translated otherwise (R11). -/
def State.apertureCycle (s : State) (wordAddr : Nat) (low : Bool) (r : Requester) (lanes : Option Lanes) : State :=
  match s.phase with
  | .defaultWriting _ => s.answered .retry
  | .draining | .rewriting _ => (s.setWaiter r .resetHold).answered .retry
  | .running =>
    s.event (fun t => t.translate (windowDrive wordAddr) (volumeOffset (cycleAddress wordAddr low)) r lanes)

end Sys2Proof.Machine
end

