-- ==== Sys2Proof/Machine/Requests.lean ====
section
/-! DEFINITION. What the Mount Controller does with the requests of a Mount Record (R127 to R135). -/

namespace Sys2Proof.Machine

/-- The seven requests (R146). -/
inductive Request where
  | mount
  | flush
  | freeze
  | thaw
  | release
  | reclaim
  | discard
  deriving DecidableEq, Repr

/-- The request that a request byte names (R146). -/
def Request.ofByte (b : Byte) : Option Request :=
  match b.toNat with
  | 1 => some .mount
  | 2 => some .flush
  | 3 => some .freeze
  | 4 => some .thaw
  | 5 => some .release
  | 6 => some .reclaim
  | 7 => some .discard
  | _ => none

/-- The byte of a request (R146). -/
def Request.byte : Request → Byte
  | .mount => 1
  | .flush => 2
  | .freeze => 3
  | .thaw => 4
  | .release => 5
  | .reclaim => 6
  | .discard => 7

/-- How the volume state decides a request: taken, or the outcome stored at the write (R128). -/
def Request.decided (q : Request) (v : VolumeState) : Option ReqOutcome :=
  match q, v with
  | .mount, .unmounted => none
  | .mount, .mounted => some .alreadyMounted
  | .mount, .frozen => some .alreadyMounted
  | .mount, .lost => some .strandedData
  | .mount, _ => some .busy
  | .flush, .mounted => none
  | .flush, .unmounted => some .noVolume
  | .flush, .frozen => some .done
  | .flush, .lost => some .noVolume
  | .flush, _ => some .busy
  | .freeze, .mounted => none
  | .freeze, .unmounted => some .noVolume
  | .freeze, .frozen => some .done
  | .freeze, .lost => some .noVolume
  | .freeze, _ => some .busy
  | .thaw, .freezing => none
  | .thaw, .frozen => none
  | .thaw, .unmounted => some .noVolume
  | .thaw, .lost => some .noVolume
  | .thaw, _ => some .busy
  | .release, .mounted => none
  | .release, .frozen => none
  | .release, .unmounted => some .noVolume
  | .release, .lost => some .noVolume
  | .release, _ => some .busy
  | .reclaim, .lost => none
  | .reclaim, _ => some .notLost
  | .discard, .mounted => none
  | .discard, .frozen => none
  | .discard, .lost => none
  | .discard, .unmounted => some .noVolume
  | .discard, _ => some .busy

/-- A request in progress begins: the volume state and the request with its class (R123, R127). -/
def State.beginRequest (s : State) (d : DriveNo) (v : VolumeState) (kind : RequestKind) (cls : OpClass) : State :=
  s.updRecord d (fun m => { m with state := v, progress := some { kind := kind, cls := cls, phase2 := false } })

/-- A MOUNT taken: the seven fields latched, a PROBE asked for (R125, R129). -/
def State.takeMount (s : State) (d : DriveNo) (cls : OpClass) : State :=
  ((((s.beginRequest d .mounting .mount cls).updRecord d (fun m => { m with latched := m.host.volume })).requestProbe d cls)).schedule

/-- A FLUSH taken: complete at once on an empty flush set, FLUSHING otherwise with a WRITE asked for each member (R131,
R144). -/
def State.takeFlush (s : State) (d : DriveNo) (cls : OpClass) : State :=
  let ks := s.unwrittenSlots d
  if ks = [] then s.setOutcome d .done
  else
    let members := ks.map (fun k => { slot := k, underWay := decide ((s.slot k).state = .writing) : FlushMember })
    let s1 := (s.beginRequest d .flushing .flush cls).updRecord d (fun m => { m with flushSet := members, flushFailed := false })
    (ks.foldl (fun t k => t.requestWriteFor k .flush cls) s1).schedule

/-- A FREEZE taken: a WRITE asked for each slot of the dirty count; it completes at the end of the event if there is none
(R132, R145). -/
def State.takeFreeze (s : State) (d : DriveNo) (cls : OpClass) : State :=
  let s1 := s.beginRequest d .freezing .freeze cls
  ((s.unwrittenSlots d).foldl (fun t k => t.requestWriteFor k .freeze cls) s1).schedule

/-- A THAW taken (R132). -/
def State.takeThaw (s : State) (d : DriveNo) : State := s.endRequest d .mounted .done

/-- A RELEASE taken: phase 1 (R133, R145). -/
def State.takeRelease (s : State) (d : DriveNo) (cls : OpClass) : State :=
  let s1 := s.beginRequest d .releasing .release cls
  ((s.unwrittenSlots d).foldl (fun t k => t.requestWriteFor k .release cls) s1).schedule

/-- A RECLAIM of a LOST volume (R134). -/
def State.takeReclaim (s : State) (d : DriveNo) (cls : OpClass) : State :=
  if s.records[d].stamp = none then s.setOutcome d .stampUnknown
  else if s.drives[d].media = .noMedia then s.setOutcome d .notReady
  else ((s.beginRequest d .reclaiming .reclaim cls).requestProbe d cls).schedule

/-- A DISCARD taken: at once, or pending while an active sector of the drive is being written (R135). -/
def State.takeDiscard (s : State) (d : DriveNo) : State :=
  if s.writingField d then s.updRecord d (fun m => { m with pendingDiscard := true })
  else (s.discardNow d).schedule

/-- A request that the volume state takes (R128). -/
def State.take (s : State) (d : DriveNo) (q : Request) (cls : OpClass) : State :=
  match q with
  | .mount => s.takeMount d cls
  | .flush => s.takeFlush d cls
  | .freeze => s.takeFreeze d cls
  | .thaw => s.takeThaw d
  | .release => s.takeRelease d cls
  | .reclaim => s.takeReclaim d cls
  | .discard => s.takeDiscard d

/-- A host write of the request field, the request class already taken (R127). -/
def State.request (s : State) (d : DriveNo) (value : Byte) : State :=
  if value = 0#8 then s
  else if s.straps.drives ≤ d.val then s.setOutcome d .driveAbsent
  else match Request.ofByte value with
    | none => s.setOutcome d .unknownRequest
    | some q =>
      if s.records[d].pendingDiscard then s.setOutcome d .busy
      else match q.decided (s.volume d) with
        | some o => s.setOutcome d o
        | none => s.take d q (requestClassOf s.records[d].host.requestClass)

end Sys2Proof.Machine
end

