-- ==== Sys2Proof/Machine/Writes.lean ====
section
/-! DEFINITION. Taking a Control Block write: the clamps, Settings and their effects, the class table, the guard, the
clears, field by field (R147 to R153). -/

namespace Sys2Proof.Machine

/-- A value clamped from above. -/
def clampTop (b : Byte) (top : Nat) : Byte := if top < b.toNat then BitVec.ofNat 8 top else b

/-- Nonzero is stored as 1 (R148, R149). -/
def nonzero (b : Byte) : Bool := decide (b ≠ 0#8)

/-! ### Settings (R149) -/

/-- A Setting's clamped value stored (R149). -/
def Settings.put (t : Settings) (i : Nat) (b : Byte) : Settings :=
  match i with
  | 0 => { t with writeBackDelay := clampTop b 60 }
  | 1 => { t with waiterLimit := clampTop b 100 }
  | 2 => { t with timeoutAction := boolByte (nonzero b) }
  | 3 => { t with promotionInterval := clampTop b 100 }
  | 4 => { t with motorIdle := b }
  | 5 => { t with headUnload := b }
  | 6 => { t with settle := if b.toNat < 5 then 5 else clampTop b 60 }
  | _ => { t with yieldLimit := clampTop b 7 }

/-- The waiter limit in ms (R149). -/
def Settings.waiterMs (t : Settings) : Nat := t.waiterLimit.toNat * 100

/-- The promotion interval in ms (R149). -/
def Settings.promotionMs (t : Settings) : Nat := t.promotionInterval.toNat * 100

/-- When an entry's limit runs out: in a hold status with its exceeded marker clear, and a limit above 0 (R67). -/
def WaiterEntry.due (e : WaiterEntry) (limitMs : Nat) : Option Nat :=
  match e with
  | .wait w =>
    match w.status with
    | .hold _ => if w.exceeded = false ∧ 0 < limitMs then some (w.start.ms + limitMs) else none
    | _ => none
  | _ => none

/-- An entry becomes EXPIRED, held as its present status (R67). -/
def WaiterEntry.expire (e : WaiterEntry) : WaiterEntry :=
  match e with
  | .wait w =>
    match w.status with
    | .hold h => .wait { w with status := .expired h }
    | _ => e
  | _ => e

/-- Every entry whose wait has reached the limit expires (R67). -/
def State.expireWaiters (s : State) : State :=
  { s with
    waiters := updAll s.waiters (fun e => match e.due s.settings.waiterMs with
      | some t => if t ≤ s.now.ms then e.expire else e
      | none => e) }

/-- When an operation is promoted: QUEUED or POSITIONED, below URGENT, an interval above 0 (R79). -/
def Op.promotionDue (o : Op) (intervalMs : Nat) : Option Nat :=
  let waiting := match o.phase with
    | .queued => true
    | .positioned _ => true
    | _ => false
  if waiting = true ∧ o.cls ≠ .urgent ∧ 0 < intervalMs then some (o.promoted.ms + intervalMs) else none

/-- One step of promotion (R79). -/
def Op.promote (o : Op) (now : Stamp) : Op := { o with cls := o.cls.up, promoted := now }

/-- Every operation that has reached the interval is promoted by one step (R79). -/
def State.promoteAll (s : State) : State :=
  { s with
    drives := updAll s.drives (fun v =>
      { v with
        queue := v.queue.map (fun o => match o.promotionDue s.settings.promotionMs with
          | some t => if t ≤ s.now.ms then o.promote s.now else o
          | none => o) }) }

/-- When the head-unload timer expires: in LOADED with the flag clear (R116). -/
def Drive.unloadDue (v : Drive) (delayMs : Nat) : Option Nat :=
  if v.media = .loaded ∧ v.current = false then v.headUnload.map (· + delayMs) else none

/-- When the motor-idle timer expires: in RUNNING with the flag clear and a time above 0 (R117). -/
def Drive.idleDue (v : Drive) (idleMs : Nat) : Option Nat :=
  if v.media = .running ∧ v.current = false ∧ 0 < idleMs then v.motorIdle.map (· + idleMs) else none

/-- The motor stops for idleness (R117). -/
def Drive.idleStop (v : Drive) : Drive := { v with media := .stopped, motorIdle := none }

/-- A change of the head-unload delay against the running timers (R119). -/
def State.unloadReached (s : State) : State :=
  { s with
    drives := updAll s.drives (fun v => match v.unloadDue s.settings.headUnloadMs with
      | some t => if t ≤ s.now.ms then v.unloadHead s.now.ms else v
      | none => v) }

/-- A change of the motor-idle time against the running timers (R119). -/
def State.idleReached (s : State) : State :=
  { s with
    drives := updAll s.drives (fun v => match v.idleDue s.settings.motorIdleMs with
      | some t => if t ≤ s.now.ms then v.idleStop else v
      | none => v) }

/-- A change of the write-back delay against the ages of the slots, in ascending number (R140). -/
def State.ageReached (s : State) : State :=
  ((List.range s.slots.length).foldl State.ageCheck s).schedule

/-- A host write of a Setting: clamped, stored, in effect at once (R149). -/
def State.putSetting (s : State) (i : Nat) (b : Byte) : State :=
  let s1 := { s with settings := s.settings.put i b }
  match i with
  | 0 => s1.ageReached
  | 1 => s1.expireWaiters
  | 3 => s1.promoteAll
  | 4 => s1.idleReached
  | 5 => s1.unloadReached
  | _ => s1

/-! ### The class table (R150) -/

/-- A host write of a class: held where it would make requester 0 BARRED (R150). -/
def State.putClass (s : State) (r : Requester) (b : Byte) : State :=
  if r = 0 ∧ classOfByte b = none then s else { s with classes := upd s.classes r (fun _ => b) }

/-! ### Mount Record fields (R125, R137, R148) -/

/-- The size code byte: above 4 it is AUTO (R148). -/
def sizeOfByte (b : Byte) : Option (Fin 4) :=
  match b.toNat with
  | 0 => some 0
  | 1 => some 1
  | 2 => some 2
  | 3 => some 3
  | _ => none

/-- The read retry limit, 1 to 8 (R123, R148). -/
def clampRetry (b : Byte) : Byte := if b = 0#8 then 1 else clampTop b 8

/-- A host field written with its clamp; guard fields and the lock are held while the lock is LOCKED (R137, R148). -/
def HostFields.put (h : HostFields) (o : Nat) (b : Byte) : HostFields :=
  match o with
  | 0x01 => { h with requestClass := b }
  | 0x02 => { h with volume := { h.volume with double := nonzero b } }
  | 0x03 => { h with volume := { h.volume with sizeCode := sizeOfByte b } }
  | 0x04 => { h with volume := { h.volume with interleave := clampTop b 31 } }
  | 0x05 => { h with volume := { h.volume with skew := clampTop b 31 } }
  | 0x06 => { h with volume := { h.volume with stepRate := Fin.ofNat 4 (clampTop b 3).toNat } }
  | 0x07 => { h with volume := { h.volume with verify := nonzero b } }
  | 0x08 => { h with volume := { h.volume with retry := clampRetry b } }
  | 0x09 => { h with writeAllow := nonzero b }
  | 0x0A => if h.guardLock then h else { h with guardExtent := Fin.ofNat 8 (clampTop b 7).toNat }
  | 0x0B => if h.guardLock then h else { h with guardHigh := nonzero b }
  | 0x0C => if h.guardLock then h else { h with guardComplement := nonzero b }
  | 0x0D => if h.guardLock then h else { h with guardLock := nonzero b }
  | 0x0E => if h.guardLock then h else { h with guardExempt := b }
  | _ => h

def State.putHost (s : State) (d : DriveNo) (o : Nat) (b : Byte) : State :=
  s.updRecord d (fun m => { m with host := m.host.put o b })

/-! ### One write (R147) -/

/-- A word field with the enabled bytes of a write put into the part's value (R147). -/
def mergeWord (w : Word) (l : Lanes) : Word := wordOf (l.lo.getD (loByte w)) (l.hi.getD (hiByte w))

/-- The write leaves the word NONE (R151, R153). -/
def clearsWord (code : Nat) (l : Lanes) : Bool := decide (mergeWord (BitVec.ofNat 16 code) l = 0#16)

/-- A write to an outcome word (R151). -/
def State.clearOutcome (s : State) (d : DriveNo) (l : Lanes) : State :=
  if clearsWord s.records[d].outcome.encode l then s.setOutcome d .none else s

/-- A write to a Fault Record's code word (R153). -/
def State.clearFault (s : State) (i : Fin 5) (l : Lanes) : State :=
  if clearsWord s.faults[i].code.encode l then { s with faults := upd s.faults i (fun _ => FaultRecord.empty) } else s

/-- An enabled byte taken by a function of it. -/
def onByte (b : Option Byte) (f : Byte → State → State) (s : State) : State :=
  match b with
  | some v => f v s
  | none => s

/-- The host-owned bytes of a Mount Record's word: the request class before the request, otherwise the low byte before the
high one, so that guard complement is taken before the lock (R127, R147). -/
def State.putRecordWord (s : State) (d : DriveNo) (o : Nat) (l : Lanes) : State :=
  if o = 0 then onByte l.lo (fun b t => t.request d b) (onByte l.hi (fun b t => t.putHost d 0x01 b) s)
  else if o = 0x12 then s.clearOutcome d l
  else if o < 0x10 then onByte l.hi (fun b t => t.putHost d (o + 1) b) (onByte l.lo (fun b t => t.putHost d o b) s)
  else s

/-- A write of requester 0 taken by the owners of the fields of a word (R147). -/
def State.putWord (s : State) (o : Nat) (l : Lanes) : State :=
  if o < 0x10 then s
  else if o < 0x18 then
    onByte l.hi (fun b t => t.putSetting (o + 1 - 0x10) b) (onByte l.lo (fun b t => t.putSetting (o - 0x10) b) s)
  else if o < 0x20 then s
  else if o < 0x28 then
    onByte l.hi (fun b t => t.putClass (Fin.ofNat 8 (o + 1 - 0x20)) b)
      (onByte l.lo (fun b t => t.putClass (Fin.ofNat 8 (o - 0x20)) b) s)
  else if o < 0x40 then s
  else if o < 0x140 then s.putRecordWord (Fin.ofNat 4 ((o - 0x40) / 0x40)) ((o - 0x40) % 0x40) l
  else if o < 0x190 ∧ (o - 0x140) % 0x10 = 0 then s.clearFault (Fin.ofNat 5 ((o - 0x140) / 0x10)) l
  else s

/-- One byte of the write as it lands in DRAM: the part's value where the layout assigns a field, the written byte
elsewhere, the bytes 08h to 0Fh of a Fault Record among them (R147; log 36). -/
def State.landByte (s : State) (o : Nat) (b : Byte) : State :=
  { s with mem := Memory.store s.mem (s.straps.cbBase + o) [(s.cbByte o).getD b] }

/-- A Control Block write at a word offset: RETRY while watching is stopped (R8); otherwise taken if it is the host's
(R147), landed in DRAM and answered DONE. -/
def State.cbWrite (s : State) (o : Nat) (l : Lanes) (r : Requester) : State :=
  if s.watching then
    s.event (fun t =>
      let t1 := if r = 0 then t.putWord o l else t
      (onByte l.hi (fun b u => u.landByte (o + 1) b) (onByte l.lo (fun b u => u.landByte o b) t1)).answered (.done none))
  else s.answered .retry

/-- A Control Block write cycle: one without an enabled byte is not classified (R1). -/
def State.cbCycle (s : State) (o : Nat) (l : Lanes) (r : Requester) : State :=
  if l.enabled then s.cbWrite o l r else s.answered (.done none)

/-- Zeros on the enabled lanes of a clearing write (R151, R153). -/
def zeroLanes (low high : Bool) : Lanes where
  lo := if low then some 0 else none
  hi := if high then some 0 else none

/-- The offset of a drive's Mount Record (R146). -/
def recordOffset (d : DriveNo) : Nat := 0x40 + d.val * 0x40

/-- A request write: the request byte with, in a halfword, the request class (R127). -/
def State.requestCycle (s : State) (d : DriveNo) (value : Byte) (cls : Option Byte) (r : Requester) : State :=
  s.cbCycle (recordOffset d) { lo := some value, hi := cls } r

/-- The offset of a Fault Record (R146). -/
def faultOffset (f : Fin 5) : Nat := 0x140 + f.val * 0x10

/-- The offset in a Mount Record of a guard field's word (R146). -/
def guardOffset : GuardWord → Nat
  | .extentEnd => 0x0A
  | .complement => 0x0C
  | .exempt => 0x0E

end Sys2Proof.Machine
end

