-- ==== Sys2Proof/Machine/BusCycles.lean ====
section
/-! DEFINITION. Bus cycles: the Bus Front End (R1 to R12) and the meanings of its five rows. -/

namespace Sys2Proof.Machine

/-- The word that a read without an enabled byte, or of unpopulated addresses, carries (R1, R3). -/
def allOnes : Word := 0xFFFF#16

/-- A cycle with neither byte enable set: DONE, no state of any block changed (R1). -/
def State.noEnable (s : State) (write : Bool) : State := s.answered (doneAnswer write allOnes)

/-- A read of DRAM at a word address (R7, R8). -/
def State.dramRead (s : State) (w : Nat) : State := s.answered (.done (some (Memory.readWord s.mem w)))

/-- A write of DRAM at a word address (R7). -/
def State.dramWrite (s : State) (w : Nat) (l : Lanes) : State :=
  { s with mem := Memory.storeLanes s.mem w l, answer := some (.done none) }

/-- An unpopulated cycle (R10). -/
def State.unpopulated (s : State) (write : Bool) (r : Requester) : State :=
  s.event (fun t =>
    (t.reportGlobal { code := .unpopulated, requester := some r, cylinder := none, head := none, sectorId := none }).answered
      (doneAnswer write allOnes))

/-- A read cycle, by the class of its address (R1, R6). -/
def State.readCycle (s : State) (a : Address) (low high : Bool) (r : Requester) : State :=
  if low || high then
    match s.straps.classify (wordAddress a) with
    | .ordinary => s.dramRead (wordAddress a)
    | .controlBlock => s.dramRead (wordAddress a)
    | .unpopulated => s.unpopulated false r
    | .aperture => s.apertureCycle (wordAddress a) low r none
  else s.noEnable false

/-- A write cycle, by the class of its address (R1, R6). -/
def State.writeCycle (s : State) (a : Address) (l : Lanes) (r : Requester) : State :=
  if l.enabled then
    match s.straps.classify (wordAddress a) with
    | .ordinary => s.dramWrite (wordAddress a) l
    | .controlBlock => s.cbWrite (wordAddress a - s.straps.cbBase) l r
    | .unpopulated => s.unpopulated true r
    | .aperture => s.apertureCycle (wordAddress a) l.lo.isSome r (some l)
  else s.noEnable true

/-- A bus cycle. The class is decided by nothing but the address (R6), whatever row the command stands in (log 8). -/
def State.busCycle (s : State) (a : Address) (op : BusOp) (r : Requester) : State :=
  match op with
  | .read low high => s.readCycle a low high r
  | .write l => s.writeCycle a l r

/-! ### The rows -/

/-- NO_ENABLE_CYCLE (R1). -/
def execNoEnableCycle (_addr : Address) (data : Option Word) (_r : Requester) (s : State) :
    Host.Outcome State Fault Refusal :=
  .next (s.noEnable data.isSome)

/-- ORDINARY_CYCLE (R7). -/
def execOrdinaryCycle (addr : Address) (op : BusOp) (r : Requester) (s : State) : Host.Outcome State Fault Refusal :=
  .next (s.busCycle addr op r)

/-- UNPOPULATED_CYCLE (R10). -/
def execUnpopulatedCycle (addr : Address) (op : BusOp) (r : Requester) (s : State) : Host.Outcome State Fault Refusal :=
  .next (s.busCycle addr op r)

/-- APERTURE_READ (R11, R26 to R45). -/
def execApertureRead (addr : Address) (low high : Bool) (r : Requester) (s : State) : Host.Outcome State Fault Refusal :=
  .next (s.readCycle addr low high r)

/-- APERTURE_WRITE (R11, R26 to R45). -/
def execApertureWrite (addr : Address) (lanes : Lanes) (r : Requester) (s : State) : Host.Outcome State Fault Refusal :=
  .next (s.writeCycle addr lanes r)

end Sys2Proof.Machine
end

