-- ==== Sys2Proof/Machine/DriveEvents.lean ====
section
/-! DEFINITION. Doors, index pulses, steps and settles (R93, R94, R107, R113, R120, R121), and the meanings of their rows.
A drive at or above the strapped drive count is not sensed (R111). -/

namespace Sys2Proof.Machine

/-- The drive is sensed and driven (R111). -/
def State.sensed (s : State) (d : DriveNo) : Bool := decide (d.val < s.straps.drives)

/-- The DOOR level of a drive. -/
def State.setDoor (s : State) (d : DriveNo) (closed : Bool) : State :=
  let bit : BitVec 4 := 1#4 <<< d.val
  { s with doors := if closed then s.doors ||| bit else s.doors &&& ~~~bit }

/-- The door opens: the drive is NO_MEDIA, its timers, index watch and step stopped, the notch unprotected (R120). -/
def Drive.doorOpens (v : Drive) : Drive :=
  { v with
    media := .noMedia
    notch := false
    spinUp := none
    headUnload := none
    motorIdle := none
    watch := none
    step := none
    move := .idle
    moved := false }

/-- The door closes: the drive is STOPPED, the notch latched, the head position unknown, the sweep inward (R113). -/
def Drive.doorCloses (v : Drive) (wprot : Bool) : Drive :=
  { v with media := .stopped, notch := wprot, head := none, inward := true }

/-- The slot of the drive's running write round, with the sectors whose end the round has reported (R100). -/
def State.endedInRound (s : State) (d : DriveNo) : Option (Nat × List Nat) :=
  match s.pass with
  | some p => match p.target, p.round with
    | .track k key gen _ _ _, .writing _ written =>
      if p.drive = d ∧ key.drive = d ∧ s.applies k key gen .writing = true then some (k, written) else none
    | _, _ => none
  | none => none

/-- A sector that its end report made VALID is DIRTY again (R122). -/
def Sector.reopened (e : Sector) : Sector := if e.state = .valid then { e with state := .dirty } else e

/-- A removal makes the sectors whose end the running write round has reported DIRTY again: with verify off they are VALID,
which R57's table does not name, so they are reopened here; with verify on they are WRITTEN, and R57 does it (R122; log 38). -/
def State.reopenEnded (s : State) (d : DriveNo) : State :=
  match s.endedInRound d with
  | some (k, ps) => s.updSlot k (fun t => ps.foldl (fun u q => u.setSector q Sector.reopened) t)
  | none => s

/-- A media removal, in the order of its hand-off (R121): where the drive's pass is stopped, the arbiter decides among the
other drives at step 2, before the slots are freed; the pass of the operation it chose begins after step 5 (log 39). The sectors
that the stopped write round had ended are DIRTY again (R122). -/
def State.removal (s : State) (d : DriveNo) : State :=
  let s1 := (s.reopenEnded d).dropOps d (fun _ => true)
  let chosen := if s.drives[d].queue.any (fun o => decide (o.phase = .transferring)) then s1.arbiterChoice else none
  match chosen with
  | some x => ((s1.giveChannel x.1 x.2.1).removeDiskette d).startPass x.1 x.2.1
  | none => s1.removeDiskette d

/-- A door-open event (R120); on a volume not UNMOUNTED it is a media removal (R121). -/
def State.doorOpens (s : State) (d : DriveNo) : State :=
  let s1 := (s.setDoor d false).updDrive d Drive.doorOpens
  (if s1.volume d = .unmounted then s1 else s1.removal d).schedule

/-- A door-close event on a drive in NO_MEDIA (R113). -/
def State.doorCloses (s : State) (d : DriveNo) : State :=
  (s.setDoor d true).updDrive d (fun v => v.doorCloses (s.pins.wprot.getLsbD d.val))

/-- An index pulse of a drive: its watch restarts, and its pass counts it (R96, R107). -/
def State.pulse (s : State) (d : DriveNo) : State :=
  let s1 := s.updDrive d (fun v => { v with watch := v.watch.map (fun _ => s.now.ms) })
  (match s1.pass with
    | some p => if p.drive = d then s1.passPulse p else s1
    | none => s1).schedule

/-! ### The rows -/

/-- DOOR_OPEN (R120, R121). -/
def execDoorOpen (d : DriveNo) (pins : Pins) (s : State) : Host.Outcome State Fault Refusal :=
  .next (if s.sensed d then s.event (fun t => (t.sense pins).doorOpens d) else s)

/-- DOOR_CLOSE (R113): the event of a drive in NO_MEDIA. -/
def execDoorClose (d : DriveNo) (pins : Pins) (s : State) : Host.Outcome State Fault Refusal :=
  .next (if s.sensed d ∧ s.drives[d].media = .noMedia then s.event (fun t => (t.sense pins).doorCloses d) else s)

/-- INDEX_PULSE (R107). -/
def execIndexPulse (d : DriveNo) (pins : Pins) (s : State) : Host.Outcome State Fault Refusal :=
  .next (if s.sensed d then s.event (fun t => (t.sense pins).pulse d) else s)

/-- STEP_COMPLETE (R93, R94). -/
def execStepComplete (d : DriveNo) (pins : Pins) (s : State) : Host.Outcome State Fault Refusal :=
  .next (match s.drives[d].step with
    | some u => s.event (fun t => (((t.advance u.due).sense pins).stepDone d u).schedule)
    | none => s)

/-- SETTLE_END (R82, R96). -/
def execSettleEnd (d : DriveNo) (pins : Pins) (s : State) : Host.Outcome State Fault Refusal :=
  .next (match s.drives[d].move with
    | .settling due => s.event (fun t => (((t.advance due).sense pins).settled d).schedule)
    | _ => s)

end Sys2Proof.Machine
end

