-- ==== Sys2Proof/Machine/Expiries.lean ====
section
/-! DEFINITION. The expiries of timers and limits: each brings the clock to the time at which it is due (log 4), and has no
effect where its timer does not run (log 10). -/

namespace Sys2Proof.Machine

/-- A spin-up ends: READY decides (R114). -/
def State.spinUpEnds (s : State) (d : DriveNo) : State :=
  let v := s.drives[d]
  if s.pins.ready.getLsbD d.val then
    let s1 := s.updDrive d (fun w =>
      { w with
        media := .running
        spinUp := none
        motorIdle := if w.current then none else some s.now.ms })
    if v.current ∧ v.move = .spinUp then s1.motorStage d else s1
  else
    let s1 := s.updDrive d (fun w => { w with media := .stopped, spinUp := none })
    if v.current then s1.opFailed d .notReady else s1

/-- The spin-up timer expires (R114). -/
def State.spinUpExpires (s : State) (d : DriveNo) (pins : Pins) : State :=
  match s.drives[d].spinUp with
  | some t => s.event (fun u => (((u.advance (t + s.straps.spinUpMs)).sense pins).spinUpEnds d).schedule)
  | none => s

/-- The index watch expires: the current operation fails with NO_INDEX (R107). -/
def State.watchExpires (s : State) (d : DriveNo) (pins : Pins) : State :=
  match s.drives[d].watch with
  | some t => s.event (fun u => (((u.advance (t + Config.indexWatchMs)).sense pins).opFailed d .noIndex).schedule)
  | none => s

/-- The head-unload timer expires (R116). -/
def State.unloadExpires (s : State) (d : DriveNo) : State :=
  match s.drives[d].unloadDue s.settings.headUnloadMs with
  | some t => s.event (fun u =>
      let w := u.advance t
      w.updDrive d (fun v => v.unloadHead w.now.ms))
  | none => s

/-- The motor-idle timer expires (R117). -/
def State.idleExpires (s : State) (d : DriveNo) : State :=
  match s.drives[d].idleDue s.settings.motorIdleMs with
  | some t => s.event (fun u => (u.advance t).updDrive d Drive.idleStop)
  | none => s

/-- A requester's wait reaches the waiter limit (R67). -/
def State.waiterExpires (s : State) (r : Requester) : State :=
  match (s.waiters[r] : WaiterEntry).due s.settings.waiterMs with
  | some t => s.event (fun u => (u.advance t).setWaiter r (s.waiters[r] : WaiterEntry).expire)
  | none => s

/-- An operation has waited one promotion interval (R79). -/
def State.promotes (s : State) (d : DriveNo) (slot : Option Nat) : State :=
  match s.drives[d].opOf slot with
  | some o => match o.promotionDue s.settings.promotionMs with
    | some t => s.event (fun u =>
        let w := u.advance t
        w.updOp d slot (fun x => x.promote w.now))
    | none => s
  | none => s

/-- A slot has been dirty for the write-back delay (R140). -/
def State.ages (s : State) (k : Nat) : State :=
  match s.ageReady k with
  | some since => s.event (fun u => ((u.advance (since + s.settings.ageMs)).requestWrite k .age .background).schedule)
  | none => s

/-! ### The rows -/

/-- INDEX_WATCH_EXPIRY (R107). -/
def execIndexWatchExpiry (d : DriveNo) (pins : Pins) (s : State) : Host.Outcome State Fault Refusal :=
  .next (s.watchExpires d pins)

/-- SPIN_UP_EXPIRY (R114). -/
def execSpinUpExpiry (d : DriveNo) (pins : Pins) (s : State) : Host.Outcome State Fault Refusal :=
  .next (s.spinUpExpires d pins)

/-- HEAD_UNLOAD_EXPIRY (R116). -/
def execHeadUnloadExpiry (d : DriveNo) (s : State) : Host.Outcome State Fault Refusal := .next (s.unloadExpires d)

/-- MOTOR_IDLE_EXPIRY (R117). -/
def execMotorIdleExpiry (d : DriveNo) (s : State) : Host.Outcome State Fault Refusal := .next (s.idleExpires d)

/-- WAITER_EXPIRY (R67). -/
def execWaiterExpiry (r : Requester) (s : State) : Host.Outcome State Fault Refusal := .next (s.waiterExpires r)

/-- PROMOTION (R79): the operation of a slot, or the PROBE where no slot is named. -/
def execPromotion (d : DriveNo) (slot : Option Nat) (s : State) : Host.Outcome State Fault Refusal :=
  .next (s.promotes d slot)

/-- AGE_WRITE_BACK (R140). -/
def execAgeWriteBack (slot : Nat) (s : State) : Host.Outcome State Fault Refusal := .next (s.ages slot)

end Sys2Proof.Machine
end

