-- ==== Sys2Proof/Machine/HostWrites.lean ====
section
/-! DEFINITION. The meanings of the rows that are writes to the Control Block: requests (R127 to R135), clears (R151,
R153), Settings (R149), the class table (R150), the fields of a Mount Record (R125, R137), any other write (R147). -/

namespace Sys2Proof.Machine

/-- MOUNT (R127, R129). -/
def execMount (d : DriveNo) (cls : Option Byte) (r : Requester) (s : State) : Host.Outcome State Fault Refusal :=
  .next (s.requestCycle d Request.mount.byte cls r)

/-- FLUSH (R127, R131, R144). -/
def execFlush (d : DriveNo) (cls : Option Byte) (r : Requester) (s : State) : Host.Outcome State Fault Refusal :=
  .next (s.requestCycle d Request.flush.byte cls r)

/-- FREEZE (R127, R132, R145). -/
def execFreeze (d : DriveNo) (cls : Option Byte) (r : Requester) (s : State) : Host.Outcome State Fault Refusal :=
  .next (s.requestCycle d Request.freeze.byte cls r)

/-- THAW (R127, R132). -/
def execThaw (d : DriveNo) (cls : Option Byte) (r : Requester) (s : State) : Host.Outcome State Fault Refusal :=
  .next (s.requestCycle d Request.thaw.byte cls r)

/-- RELEASE (R127, R133, R145). -/
def execRelease (d : DriveNo) (cls : Option Byte) (r : Requester) (s : State) : Host.Outcome State Fault Refusal :=
  .next (s.requestCycle d Request.release.byte cls r)

/-- RECLAIM (R127, R134). -/
def execReclaim (d : DriveNo) (cls : Option Byte) (r : Requester) (s : State) : Host.Outcome State Fault Refusal :=
  .next (s.requestCycle d Request.reclaim.byte cls r)

/-- DISCARD (R127, R135). -/
def execDiscard (d : DriveNo) (cls : Option Byte) (r : Requester) (s : State) : Host.Outcome State Fault Refusal :=
  .next (s.requestCycle d Request.discard.byte cls r)

/-- UNKNOWN_REQUEST: a request value that is none of the seven (R127). -/
def execUnknownRequest (d : DriveNo) (value : Byte) (cls : Option Byte) (r : Requester) (s : State) :
    Host.Outcome State Fault Refusal :=
  .next (s.requestCycle d value cls r)

/-- OUTCOME_CLEAR: zeros written to an outcome word (R151). -/
def execOutcomeClear (d : DriveNo) (low high : Bool) (r : Requester) (s : State) : Host.Outcome State Fault Refusal :=
  .next (s.cbCycle (recordOffset d + 0x12) (zeroLanes low high) r)

/-- FAULT_RECORD_CLEAR: zeros written to a fault code word (R153). -/
def execFaultRecordClear (f : Fin 5) (low high : Bool) (r : Requester) (s : State) : Host.Outcome State Fault Refusal :=
  .next (s.cbCycle (faultOffset f) (zeroLanes low high) r)

/-- SETTINGS_WRITE: a write to the word of two Settings (R149). -/
def execSettingsWrite (pair : Fin 4) (lanes : Lanes) (r : Requester) (s : State) : Host.Outcome State Fault Refusal :=
  .next (s.cbCycle (0x10 + 2 * pair.val) lanes r)

/-- CLASS_TABLE_WRITE: a write to the word of two requesters' classes (R150). -/
def execClassTableWrite (pair : Fin 4) (lanes : Lanes) (r : Requester) (s : State) : Host.Outcome State Fault Refusal :=
  .next (s.cbCycle (0x20 + 2 * pair.val) lanes r)

/-- WRITE_ALLOW_WRITE: a write of write allow, with the read retry limit in a halfword (R125, R148). -/
def execWriteAllowWrite (d : DriveNo) (value : Byte) (retry : Option Byte) (r : Requester) (s : State) :
    Host.Outcome State Fault Refusal :=
  .next (s.cbCycle (recordOffset d + 0x08) { lo := retry, hi := some value } r)

/-- GUARD_FIELD_WRITE: a write to a word of guard fields (R137). -/
def execGuardFieldWrite (d : DriveNo) (field : GuardWord) (lanes : Lanes) (r : Requester) (s : State) :
    Host.Outcome State Fault Refusal :=
  .next (s.cbCycle (recordOffset d + guardOffset field) lanes r)

/-- GUARD_LOCK_WRITE: a write of the guard lock, with guard complement in a halfword (R137, R147). -/
def execGuardLockWrite (d : DriveNo) (value : Byte) (complement : Option Byte) (r : Requester) (s : State) :
    Host.Outcome State Fault Refusal :=
  .next (s.cbCycle (recordOffset d + 0x0C) { lo := complement, hi := some value } r)

/-- CONTROL_BLOCK_WRITE: a write to any word of the block (R147). -/
def execControlBlockWrite (wordIndex : Fin 256) (lanes : Lanes) (r : Requester) (s : State) :
    Host.Outcome State Fault Refusal :=
  .next (s.cbCycle (2 * wordIndex.val) lanes r)

end Sys2Proof.Machine
end

