-- ==== Sys2Proof/Machine/Resets.lean ====
section
/-! DEFINITION. Power-on reset and bus reset (R154 to R159), and the meanings of the four reset rows. -/

namespace Sys2Proof.Machine

/-- Power-on reset: every block in its starting state, DRAM as it stands, the layout version word stored as 0 at the newly
latched base (R154, R155, R159; log 3). -/
def State.powerOn (s : State) (lines : BitVec 9) (doors : BitVec 4) (pins : Pins) : State :=
  let t := State.initial lines doors pins s.mem { s.now with seq := s.now.seq + 1 } s.pending
  { t with mem := Memory.store t.mem t.straps.cbBase [0, 0] }

/-- The default writing ends (R155). -/
def State.defaultWritingEnds (s : State) : State :=
  match s.phase with
  | .defaultWriting n => s.event (fun t => t.endWriting n)
  | _ => s

/-- The rewrite that ends reset-flush ends (R158). -/
def State.rewriteEnds (s : State) : State :=
  match s.phase with
  | .rewriting n => s.event (fun t => t.endWriting n)
  | _ => s

/-! ### The steps of a bus reset (R156) -/

/-- Step 1: watching stops, the layout version becomes 0, the Waiter Table is emptied. -/
def State.resetFront (s : State) : State :=
  { s with phase := .draining, layoutVersion := 0, waiters := Vector.replicate 8 .empty }

/-- A Mount Record whose request ends without an outcome in a volume state, its pending discard cancelled (R156 step 2). -/
def MountRecord.resetTo (m : MountRecord) (v : VolumeState) : MountRecord :=
  { m with state := v, progress := none, flushSet := [], flushFailed := false, pendingDiscard := false }

/-- Step 2: a volume. -/
def State.resetVolume (s : State) (d : DriveNo) : State :=
  match s.volume d with
  | .mounting => s.unmount d
  | .reclaiming => s.updRecord d (fun m => m.resetTo .lost)
  | .flushing | .freezing | .releasing => s.updRecord d (fun m => m.resetTo .mounted)
  | .unmounted | .mounted | .frozen | .lost => s.updRecord d (fun m => { m with pendingDiscard := false })

/-- Step 3: every FILL and PROBE is dropped and every pending write removed; the slots of the FILLs are treated by R51, before
those that a drain ending at this very event frees (R157; log 37). -/
def State.resetDrops (s : State) : State :=
  let ks := s.slotsWhere (fun k _ => driveNos.any (fun d => (s.fillSlots d (fun _ => true)).contains k))
  let s1 := driveNos.foldl (fun t d => t.dropOps d (fun o => !o.work.isWrite)) s
  let s2 := { s1 with slots := s1.slots.map (fun t => { t with pendingWrite := none }) }
  ks.foldl State.fillStopped s2

/-- The slots that step 4 writes: those of volumes not LOST that hold a DIRTY sector, ascending. -/
def State.resetDirty (s : State) : List Nat :=
  s.slotsWhere (fun _ t => t.dirty && (match t.key with
    | some key => decide (s.volume key.drive ≠ .lost)
    | none => false))

/-- Step 4: a WRITE with reason RESET and class URGENT for each. -/
def State.resetWrites (s : State) : State := s.resetDirty.foldl (fun t k => t.requestWriteFor k .reset .urgent) s

/-- A bus reset begins reset-flush while watching runs; otherwise it has no effect (R156, R159). The drain may end at this
very event (R157). -/
def State.busReset (s : State) : State :=
  if s.watching then
    s.event (fun t => ((driveNos.foldl State.resetVolume t.resetFront).resetDrops.resetWrites).schedule)
  else s

/-! ### The rows -/

/-- POWER_ON_RESET (R154, R155, R159). -/
def execPowerOnReset (straps : BitVec 9) (doors : BitVec 4) (pins : Pins) (s : State) : Host.Outcome State Fault Refusal :=
  .next (s.powerOn straps doors pins)

/-- DEFAULT_WRITING_END (R155). -/
def execDefaultWritingEnd (s : State) : Host.Outcome State Fault Refusal := .next s.defaultWritingEnds

/-- BUS_RESET (R156, R159). -/
def execBusReset (s : State) : Host.Outcome State Fault Refusal := .next s.busReset

/-- RESET_FLUSH_REWRITE_END (R158). -/
def execResetFlushRewriteEnd (s : State) : Host.Outcome State Fault Refusal := .next s.rewriteEnds

end Sys2Proof.Machine
end

