-- ==== Sys2Proof/Machine/TrackFields.lean ====
section
/-! DEFINITION. ID fields and data fields passing under the head during a pass (R95 to R104), the end of a written field
and the yield (R56, R87, R88, R100), and the meanings of their rows. -/

namespace Sys2Proof.Machine

/-! ### The classification of ID fields (R95) -/

/-- The encoding in which a pass reads: MFM or FM; nothing is read before a search's first revolution (R90, R103). -/
def Pass.encoding (p : Pass) : Option Bool :=
  match p.target with
  | .track _ _ _ _ size _ => some (recordedMfm size)
  | .diskette asked => match p.round with
    | .label size => some (recordedMfm size)
    | .searching 0 => none
    | .searching revolution => match asked with
      | some c => some (recordedMfm c)
      | none => some (decide (revolution = 1))
    | _ => none

/-- The class of an ID field; a matching one gives its logical position (R95). -/
inductive IdClass where
  | unreadable
  | wrongCylinder
  | foreign
  | matching (p : Nat)
  deriving DecidableEq, Repr

/-- The size code of an ID field that an AUTO search takes: 1 to 3 in MFM, 0 in FM, with an ID of 1 to N (R103). -/
def autoSize (mfm : Bool) (code id : Byte) : Option (Fin 4) :=
  let c : Fin 4 := Fin.ofNat 4 code.toNat
  if code.toNat < 4 ∧ recordedMfm c = mfm ∧ 1 ≤ id.toNat ∧ id.toNat ≤ sectorsPerTrack c then some c else none

/-- The class of a good ID field of the target cylinder and head (R95). -/
def Pass.classifyHere (p : Pass) (f : IdField) : IdClass :=
  match p.target with
  | .track _ _ _ ids size _ =>
    if f.sizeCode.toNat ≠ size.val then .foreign
    else match positionOf ids f.sectorId.toNat with
      | some q => .matching q
      | none => .foreign
  | .diskette asked => match p.round with
    | .label size => if f.sizeCode.toNat = size.val ∧ f.sectorId = 1#8 then .matching 0 else .foreign
    | _ => match asked with
      | some _ => .matching 0
      | none => if (autoSize f.mfm f.sizeCode f.sectorId).isSome then .matching 0 else .foreign

/-- The class of an ID field (R95). -/
def Pass.classify (p : Pass) (f : IdField) : IdClass :=
  if IdField.good f = false then .unreadable
  else if f.cylinder.toNat ≠ p.cylinder then .wrongCylinder
  else if f.head.toNat ≠ p.head then .foreign
  else p.classifyHere f

/-! ### What the round does with an ID field -/

/-- The pass awaits the data field of a position. -/
def State.awaits (s : State) (p : Pass) (q : Option Nat) : State := { s with pass := some { p with awaited := q } }

/-- The data field awaited has not come before the next ID field: a verify takes it as not found, the other rounds go on
(R97, R101, R104; log 12). -/
def State.missedField (s : State) (p : Pass) : State :=
  match p.awaited with
  | none => s
  | some q => match p.round with
    | .verifying _ _ => s.verifyResult p q false
    | _ => s.awaits p none

/-- The begin report of a sector (R53, R100): an OUTBOUND sector becomes active and its field goes out; any other leaves the
write list. -/
def State.beginSector (s : State) (p : Pass) (k : Nat) (key : Key) (gen : Byte) (id : Nat) (size : Fin 4)
    (todo written : List Nat) (q : Nat) : State :=
  if s.applies k key gen .writing ∧ ((s.slot k).sector q).state = .outbound then
    { s.updSlot k (fun t => { t with active := some q }) with
      fieldOut := some {
        drive := p.drive
        cylinder := p.cylinder
        head := p.head
        sectorId := id
        field := DataField.ofBytes size (Memory.readRun s.mem (s.slotAddr k (q * sectorSize size)) (sectorSize size)) } }
  else
    let p1 := { p with round := .writing (todo.erase q) written }
    let s1 := { s with pass := some p1 }
    if todo.erase q = [] then s1.writeRoundEnd p1 else s1

/-- A matching ID field of a search: the size code is taken, and the field counts for the label if it is ID 1; an explicit
size code contradicted ends the PROBE (R103, R104). -/
def State.searchFound (s : State) (p : Pass) (asked : Option (Fin 4)) (f : IdField) : State :=
  let taken : Option (Fin 4) := match asked with
    | some c => if f.sizeCode.toNat = c.val then some c else none
    | none => autoSize f.mfm f.sizeCode f.sectorId
  match taken with
  | some c => s.awaits (p.inRound (.label c)) (if f.sectorId = 1#8 then some 0 else none)
  | none => s.probeEnd p .mismatch

/-- What the round does with a matching ID field at a position (R97, R100, R101, R103, R104). -/
def State.matched (s : State) (p : Pass) (f : IdField) (q : Nat) : State :=
  match p.target, p.round with
  | .track k key gen _ _ _, .reading _ =>
    if s.applies k key gen .filling ∧ ((s.slot k).sector q).state = .absent then s.awaits p (some q) else s
  | .track k key gen _ size _, .writing todo written =>
    if todo.contains q then s.beginSector p k key gen f.sectorId.toNat size todo written q else s
  | .track _ _ _ _ _ _, .verifying todo _ => if todo.contains q then s.awaits p (some q) else s
  | .diskette asked, .searching _ => s.searchFound p asked f
  | .diskette _, .label _ => s.awaits p (some 0)
  | _, _ => s

/-- An ID field that a pass reads (R95). -/
def State.idPasses (s : State) (p : Pass) (f : IdField) : State :=
  match p.classify f with
  | .unreadable => s
  | .foreign => s
  | .wrongCylinder => s.beginRecovery p
  | .matching q => s.matched p f q

/-- A pass reads a field: it is not recovering, writes no field, and reads in the field's encoding (R90, R96). -/
def State.reads (s : State) (p : Pass) (mfm : Bool) : Bool :=
  !p.recovering && !s.writingField p.drive && decide (p.encoding = some mfm)

/-- An ID field passes under the head of the drive that holds the channel. -/
def State.idField (s : State) (f : IdField) : State :=
  match s.pass with
  | none => s
  | some p =>
    if s.reads p f.mfm then
      let s1 := s.missedField p
      match s1.pass with
      | some p1 => s1.idPasses p1 f
      | none => s1
    else s

/-! ### The data field of a fill (R49, R97) -/

/-- The arrival report (R49). -/
def State.arrives (s : State) (k : Nat) (key : Key) (gen : Byte) (size : Fin 4) (q : Nat) (f : DataField) : State :=
  if s.applies k key gen .filling ∧ ((s.slot k).sector q).state = .absent then
    let s1 := { s with mem := Memory.store s.mem (s.slotAddr k (q * sectorSize size)) f.bytes }
    if DataField.good f then s1.updSlot k (fun t => t.setSector q (fun _ => { state := .valid, report := false })) else s1
  else s

/-- A position is marked seen (R97). -/
def markSeen (seen : List Nat) (q : Nat) : List Nat := if seen.contains q then seen else seen ++ [q]

/-- The data field of the sector awaited passes during a FILL (R97, R98). -/
def State.fillField (s : State) (f : DataField) : State :=
  match s.pass with
  | none => s
  | some p => match p.target, p.round, p.awaited with
    | .track k key gen _ size _, .reading seen, some q =>
      if s.reads p f.mfm = false then s
      else if f.mark ≠ .data then s.awaits p none
      else if DataField.isSector f size = false then s
      else
        let p1 := { p with round := .reading (markSeen seen q), awaited := none }
        let s1 := ({ s with pass := some p1 } : State).arrives k key gen size q f
        if (s1.slot k).holds .absent then s1 else s1.fillEnd p1
    | _, _, _ => s

/-! ### The end of a written field (R53, R56, R87, R88, R100) -/

/-- The end report: the sector is no longer active, and is WRITTEN with verify on, VALID with verify off (R53). -/
def Slot.sectorEnds (t : Slot) (q : Nat) (verify : Bool) : Slot :=
  { t.setSector q (fun e => if e.state = .outbound then { e with state := if verify then .written else .valid } else e) with
    active := none }

/-- Another drive's current operation is POSITIONED with class URGENT (R87). -/
def State.urgentElsewhere (s : State) (d : DriveNo) : Bool :=
  driveNos.any (fun e => decide (e ≠ d) && (match s.drives[e].positionedOp with
    | some (o, _) => decide (o.cls = .urgent)
    | none => false))

/-- The yield condition (R87). -/
def State.yieldHolds (s : State) (d : DriveNo) (k : Nat) (verify : Bool) (todo written : List Nat) : Bool :=
  (match s.drives[d].opOf (some k) with
    | some o => decide (o.cls ≠ .urgent)
    | none => false) &&
  s.urgentElsewhere d && decide ((s.slot k).yields < s.settings.yieldLimit.toNat) &&
  (decide (todo ≠ []) || (verify && decide (written ≠ [])))

/-- A sector at a yield: OUTBOUND becomes DIRTY, WRITTEN becomes VALID without a verify (R56). -/
def Sector.yields (e : Sector) : Sector :=
  match e.state with
  | .outbound => { e with state := .dirty }
  | .written => { e with state := .valid }
  | _ => e

/-- The yield report at the Track Directory (R56, R139). -/
def Slot.yieldReport (t : Slot) (now : Nat) : Slot :=
  let u := t.mapSectors Sector.yields
  { u with
    state := .resident
    yields := t.yields + 1
    dirtySince := if u.dirty then some now else none
    active := none }

/-- A yield: the WRITE returns to phase QUEUED in its place, the channel is freed; a flush-set member's next pass starts
after the formation (R56, R88, R144). -/
def State.yield (s : State) (d : DriveNo) (k : Nat) : State :=
  let s1 := s.updSlot k (fun t => t.yieldReport s.now.ms)
  let s2 := s1.updOp d (some k) (fun o => { o with phase := .queued, promoted := s.now })
  let s3 := { s2.updDrive d (fun v => { v with move := .idle, moved := false }) with pass := none }
  let s4 := s3.updRecord d (fun m =>
    { m with flushSet := m.flushSet.map (fun x => if x.slot = k then { x with underWay := false } else x) })
  if (s4.slot k).dirty then s4 else s4.releaseEvent none

/-- The write of a data field ends: the end report, then a pending discard (R135) or the yield check (R87), then the end of
the round with its write list or its pulses (R100; log 13). -/
def State.writeFieldEnds (s : State) : State :=
  match s.pass with
  | none => s
  | some p => match p.target, p.round with
    | .track k _ _ _ _ verify, .writing todo written =>
      match (s.slot k).active with
      | none => s
      | some q =>
        let todo1 := todo.erase q
        let p1 := { p with round := .writing todo1 (written ++ [q]) }
        let s1 := ({ s with pass := some p1 } : State).updSlot k (fun t => t.sectorEnds q verify)
        if s.records[p.drive].pendingDiscard then s1.discardNow p.drive
        else if s1.yieldHolds p.drive k verify todo1 (written ++ [q]) then s1.yield p.drive k
        else if todo1 = [] then s1.writeRoundEnd p1
        else s1.roundCheck p1
    | _, _ => s

/-! ### The data fields of a verify and of a label (R101, R104) -/

/-- The data field of a written sector is read back (R101). -/
def State.verifyField (s : State) (f : DataField) : State :=
  match s.pass with
  | none => s
  | some p => match p.target, p.round, p.awaited with
    | .track _ _ _ _ size _, .verifying _ _, some q =>
      if s.reads p f.mfm = false then s
      else if f.mark ≠ .data then s.verifyResult p q false
      else if DataField.isSector f size = false then s
      else s.verifyResult p q (DataField.good f)
    | _, _, _ => s

/-- The label sector's data field is read into the probe buffer; a good one ends the PROBE with its stamp (R104, R105). -/
def State.labelField (s : State) (f : DataField) : State :=
  match s.pass with
  | none => s
  | some p => match p.target, p.round, p.awaited with
    | .diskette _, .label size, some _ =>
      if s.reads p f.mfm = false then s
      else if f.mark ≠ .data then s.awaits p none
      else if DataField.isSector f size = false then s
      else
        let s1 := { s with probeBuffer := f.bytes ++ s.probeBuffer.drop f.bytes.length }
        if DataField.good f then s1.probeEnd p (.found size (some (stampOf f.bytes))) else s1.awaits p none
    | _, _, _ => s

/-! ### The rows -/

/-- ID_FIELD_READ (R95 to R104). -/
def execIdFieldRead (field : IdField) (pins : Pins) (s : State) : Host.Outcome State Fault Refusal :=
  .next (s.event (fun t => ((t.sense pins).idField field).schedule))

/-- FILL_DATA_FIELD_READ (R97, R98). -/
def execFillDataFieldRead (field : DataField) (pins : Pins) (s : State) : Host.Outcome State Fault Refusal :=
  .next (s.event (fun t => ((t.sense pins).fillField field).schedule))

/-- WRITE_FIELD_END (R87, R100). -/
def execWriteFieldEnd (pins : Pins) (s : State) : Host.Outcome State Fault Refusal :=
  .next (s.event (fun t => ((t.sense pins).writeFieldEnds).schedule))

/-- VERIFY_DATA_FIELD_READ (R101, R102). -/
def execVerifyDataFieldRead (field : DataField) (pins : Pins) (s : State) : Host.Outcome State Fault Refusal :=
  .next (s.event (fun t => ((t.sense pins).verifyField field).schedule))

/-- LABEL_DATA_FIELD_READ (R104, R105). -/
def execLabelDataFieldRead (field : DataField) (pins : Pins) (s : State) : Host.Outcome State Fault Refusal :=
  .next (s.event (fun t => ((t.sense pins).labelField field).schedule))

end Sys2Proof.Machine
end

