-- ==== Sys2Proof/Machine/Dispatch.lean ====
section
/-! DEFINITION. One arm for each command: the meaning of each row of spec/opcode_table.json. -/

namespace Sys2Proof.Machine

/-- The effect of a command on everything but the queue. -/
def exec (i : Instr) (s : State) : Host.Outcome State Fault Refusal :=
  match i with
  | .noEnableCycle addr data r => Sys2Proof.Machine.execNoEnableCycle addr data r s
  | .ordinaryCycle addr op r => Sys2Proof.Machine.execOrdinaryCycle addr op r s
  | .unpopulatedCycle addr op r => Sys2Proof.Machine.execUnpopulatedCycle addr op r s
  | .apertureRead addr low high r => Sys2Proof.Machine.execApertureRead addr low high r s
  | .apertureWrite addr lanes r => Sys2Proof.Machine.execApertureWrite addr lanes r s
  | .mount d cls r => Sys2Proof.Machine.execMount d cls r s
  | .flush d cls r => Sys2Proof.Machine.execFlush d cls r s
  | .freeze d cls r => Sys2Proof.Machine.execFreeze d cls r s
  | .thaw d cls r => Sys2Proof.Machine.execThaw d cls r s
  | .release d cls r => Sys2Proof.Machine.execRelease d cls r s
  | .reclaim d cls r => Sys2Proof.Machine.execReclaim d cls r s
  | .discard d cls r => Sys2Proof.Machine.execDiscard d cls r s
  | .unknownRequest d value cls r => Sys2Proof.Machine.execUnknownRequest d value cls r s
  | .outcomeClear d low high r => Sys2Proof.Machine.execOutcomeClear d low high r s
  | .faultRecordClear f low high r => Sys2Proof.Machine.execFaultRecordClear f low high r s
  | .settingsWrite pair lanes r => Sys2Proof.Machine.execSettingsWrite pair lanes r s
  | .classTableWrite pair lanes r => Sys2Proof.Machine.execClassTableWrite pair lanes r s
  | .writeAllowWrite d value retry r => Sys2Proof.Machine.execWriteAllowWrite d value retry r s
  | .guardFieldWrite d field lanes r => Sys2Proof.Machine.execGuardFieldWrite d field lanes r s
  | .guardLockWrite d value complement r => Sys2Proof.Machine.execGuardLockWrite d value complement r s
  | .controlBlockWrite wordIndex lanes r => Sys2Proof.Machine.execControlBlockWrite wordIndex lanes r s
  | .powerOnReset straps doors pins => Sys2Proof.Machine.execPowerOnReset straps doors pins s
  | .defaultWritingEnd => Sys2Proof.Machine.execDefaultWritingEnd s
  | .busReset => Sys2Proof.Machine.execBusReset s
  | .resetFlushRewriteEnd => Sys2Proof.Machine.execResetFlushRewriteEnd s
  | .doorOpen d pins => Sys2Proof.Machine.execDoorOpen d pins s
  | .doorClose d pins => Sys2Proof.Machine.execDoorClose d pins s
  | .indexPulse d pins => Sys2Proof.Machine.execIndexPulse d pins s
  | .indexWatchExpiry d pins => Sys2Proof.Machine.execIndexWatchExpiry d pins s
  | .spinUpExpiry d pins => Sys2Proof.Machine.execSpinUpExpiry d pins s
  | .headUnloadExpiry d => Sys2Proof.Machine.execHeadUnloadExpiry d s
  | .motorIdleExpiry d => Sys2Proof.Machine.execMotorIdleExpiry d s
  | .waiterExpiry r => Sys2Proof.Machine.execWaiterExpiry r s
  | .promotion d slot => Sys2Proof.Machine.execPromotion d slot s
  | .ageWriteBack slot => Sys2Proof.Machine.execAgeWriteBack slot s
  | .stepComplete d pins => Sys2Proof.Machine.execStepComplete d pins s
  | .settleEnd d pins => Sys2Proof.Machine.execSettleEnd d pins s
  | .idFieldRead field pins => Sys2Proof.Machine.execIdFieldRead field pins s
  | .fillDataFieldRead field pins => Sys2Proof.Machine.execFillDataFieldRead field pins s
  | .writeFieldEnd pins => Sys2Proof.Machine.execWriteFieldEnd pins s
  | .verifyDataFieldRead field pins => Sys2Proof.Machine.execVerifyDataFieldRead field pins s
  | .labelDataFieldRead field pins => Sys2Proof.Machine.execLabelDataFieldRead field pins s

end Sys2Proof.Machine
end

