-- ==== Sys2Proof/Safety.lean ====
section
/-! DEFINITION. What a sound state of the part is: the invariants that the manual gives its tables, and the states in which
no drive work waits, in the terms the statements use. -/

namespace Sys2Proof

/-- The byte that a write at a word offset carries for an offset. -/
def Lanes.byteAt (l : Lanes) (o x : Nat) : Option Byte := if x = o then l.lo else if x = o + 1 then l.hi else none

end Sys2Proof

namespace Sys2Proof.Machine

/-! ### Invariants -/

/-- The slot table has one entry for each slot in force (R35, R154). -/
def State.SlotsSized (s : State) : Prop := s.slots.length = s.straps.slots

/-- Requester 0 is never BARRED (R150). -/
def State.HostNotBarred (s : State) : Prop := s.classOf 0 ≠ none

/-- Every Setting lies in its range (R149). -/
def Settings.InRange (t : Settings) : Prop :=
  t.writeBackDelay.toNat ≤ 60 ∧ t.waiterLimit.toNat ≤ 100 ∧ t.timeoutAction.toNat ≤ 1 ∧ t.promotionInterval.toNat ≤ 100 ∧
    5 ≤ t.settle.toNat ∧ t.settle.toNat ≤ 60 ∧ t.yieldLimit.toNat ≤ 7

/-- The host fields of a Mount Record lie in their ranges, as far as their types leave that open (R123, R148). -/
def HostFields.InRange (h : HostFields) : Prop :=
  h.volume.interleave.toNat ≤ 31 ∧ h.volume.skew.toNat ≤ 31 ∧ 1 ≤ h.volume.retry.toNat ∧ h.volume.retry.toNat ≤ 8

/-- The host fields of every Mount Record lie in their ranges (R123, R148). -/
def State.HostInRange (s : State) : Prop := ∀ d : DriveNo, s.records[d].host.InRange

/-- The offset up to which DRAM shows the part's copies: the whole block, or as far as a writing has come (R8, R155, R158;
log 6). -/
def State.shownTo (s : State) : Nat :=
  match s.phase with
  | .defaultWriting n => n
  | .rewriting n => n
  | _ => cbEnd

/-- DRAM shows the part's copies of the Control Block fields (R8, R147): what a read of the block gives is what the part
acts on. -/
def State.CopiesShown (s : State) : Prop :=
  ∀ o b, o < s.shownTo → s.cbByte o = some b → Memory.read s.mem (s.straps.cbBase + o) = b

/-- A drive has at most one current operation (R75), and at most one operation for each slot and one PROBE (R76). -/
def Drive.QueueSound (v : Drive) : Prop :=
  (v.queue.filter Op.isCurrent).length ≤ 1 ∧ (v.queue.map (fun o => o.work.slot?)).Nodup

/-- The operations that hold the channel (R84). -/
def State.transfers (s : State) : List Op :=
  s.drives.toList.flatMap (fun v => v.queue.filter (fun o => decide (o.phase = .transferring)))

/-- The queues are sound and at most one operation holds the channel (R75, R76, R84). -/
def State.QueuesSound (s : State) : Prop := (∀ d : DriveNo, s.drives[d].QueueSound) ∧ s.transfers.length ≤ 1

/-- The slot table and its lists are sound: the free list holds every FREE slot once and the recency order every other slot once
(R46, R47); a slot has a key exactly while it is not FREE (R35), no two slots have one key (R38), and only a WRITING slot has an
active sector (R53). -/
structure State.DirectorySound (s : State) : Prop where
  freeNodup : s.freeList.Nodup
  free : ∀ k, k ∈ s.freeList ↔ k < s.slots.length ∧ (s.slot k).state = .free
  recencyNodup : s.recency.Nodup
  recency : ∀ k, k ∈ s.recency ↔ k < s.slots.length ∧ (s.slot k).state ≠ .free
  keyed : ∀ k, k < s.slots.length → ((s.slot k).key = none ↔ (s.slot k).state = .free)
  keysDiffer : ∀ j k, j < s.slots.length → k < s.slots.length → (s.slot j).key = (s.slot k).key → (s.slot j).key ≠ none → j = k
  active : ∀ k, (s.slot k).active ≠ none → (s.slot k).state = .writing

/-! ### States in which an event has left nothing to be done -/

/-- The volume of a drive has no FREEZE or RELEASE under way. -/
abbrev State.NoDrain (s : State) (d : DriveNo) : Prop := s.volume d ≠ .freezing ∧ s.volume d ≠ .releasing

/-- A drive as the end of an event leaves it: it has an operation only if one is current (R81), its current-operation flag
says so (R116), and its index watch runs while it turns at speed with a current operation (R107). -/
abbrev Drive.Steady (v : Drive) : Prop :=
  (v.currentOp = none → v.queue = []) ∧ (v.current = true ↔ v.currentOp ≠ none) ∧
    (v.watch ≠ none ↔ v.atSpeed = true ∧ v.currentOp ≠ none)

/-- Watching runs, every drive is steady, no FREEZE or RELEASE is under way, and no POSITIONED operation waits for a free
channel (R84). -/
abbrev State.Steady (s : State) : Prop :=
  s.phase = .running ∧ (∀ d : DriveNo, s.drives[d].Steady ∧ s.NoDrain d) ∧
    (s.channelHeld = true ∨ ∀ d : DriveNo, s.drives[d].positionedOp = none)

/-- A drive without an operation, as the end of an event leaves it: flag clear, index watch stopped (R107, R116). -/
abbrev Drive.Resting (v : Drive) : Prop := v.queue = [] ∧ v.current = false ∧ v.watch = none

/-- Watching runs, every drive rests, and no volume has a FREEZE or RELEASE under way. -/
abbrev State.Idle (s : State) : Prop := s.phase = .running ∧ ∀ e : DriveNo, s.drives[e].Resting ∧ s.NoDrain e

/-- No requester waits for a slot (R45, R48). -/
abbrev State.NoSlotWaits (s : State) : Prop := ∀ r : Requester, s.slotWait r = none

/-- A slot of the drive holds its only operation, which holds the channel with the head loaded; no other drive waits for the
channel, and the head-unload delay is above 0. -/
abbrev State.OnlyOperation (s : State) (d : DriveNo) (k : Nat) : Prop :=
  (∃ o, s.drives[d].queue = [o] ∧ o.work.slot? = some k ∧ o.phase = .transferring) ∧ s.drives[d].media = .loaded ∧
    s.settings.headUnload ≠ 0 ∧ ∀ e : DriveNo, s.drives[e].positionedOp = none

/-- A drive whose only operation has ended in its pass: no operation, and the head-unload timer runs (R86, R116). -/
def Drive.workEnded (v : Drive) (now : Nat) : Drive :=
  { v with queue := [], current := false, move := .idle, moved := false, headUnload := some now, watch := none }

/-- Step 2 of the victim rule may reuse the slot (R43). -/
abbrev State.Reusable (s : State) (k : Nat) : Prop :=
  (s.slot k).state = .resident ∧ s.link k = none ∧ (s.slot k).writeFailed = false ∧
    ∀ e ∈ (s.slot k).sectors, e.state = .valid ∨ e.state = .damaged

/-- Step 3 of the victim rule may give the slot an eviction write (R43). -/
abbrev State.Evictable (s : State) (k : Nat) : Prop :=
  (s.slot k).state = .resident ∧ s.link k = none ∧ (s.slot k).writeFailed = false ∧ (s.slot k).dirty = true

/-! ### What an event stores in DRAM -/

/-- The time and the event number of the event that takes a command at the present time. -/
def State.eventStamp (s : State) : Stamp := { ms := s.now.ms, seq := s.now.seq + 1 }

/-- The same for an event that brings the clock to a time in ms (log 4). -/
def State.eventStampAt (s : State) (ms : Nat) : Stamp := { ms := max s.now.ms ms, seq := s.now.seq + 1 }

/-- An address lies in the Control Block (R5). -/
abbrev State.inControlBlock (s : State) (a : Nat) : Prop := s.straps.cbBase ≤ a ∧ a < s.straps.cbBase + 512

/-- The byte that DRAM holds at an offset of the Control Block. -/
def State.shown (s : State) (o : Nat) : Byte := Memory.read s.mem (s.straps.cbBase + o)

/-- The byte at an offset of the Control Block after an event that goes from one state to another: the part's byte where the
event has changed a field of its word or its Fault Record, and what stood there elsewhere (R9, R152). -/
def State.refreshed (s t : State) (o : Nat) : Byte :=
  if s.cbChanged t o = true then (t.cbByte o).getD (s.shown o) else s.shown o

/-- The bytes of DRAM that the part stores at an event are the words and the Fault Records of the Control Block that the event
changes, whole, and no others (R9, R147, R152). -/
def State.Stores (s t : State) : Prop :=
  (∀ a, ¬ s.inControlBlock a → Memory.read t.mem a = Memory.read s.mem a) ∧
    ∀ o, o < 512 → t.shown o = s.refreshed t o

/-- The same for a Control Block write at a word offset: a written byte lands as the part's byte where the layout assigns a
field, and as written elsewhere (R147). -/
def State.Lands (s t : State) (o : Nat) (l : Lanes) : Prop :=
  (∀ a, ¬ s.inControlBlock a → Memory.read t.mem a = Memory.read s.mem a) ∧
    ∀ x, x < 512 → t.shown x = match l.byteAt o x with
      | some b => (t.cbByte x).getD b
      | none => s.refreshed t x

/-! ### Commands and accesses, in the terms the statements use -/

/-- The command that is a host write of a request (R127). -/
def Request.command : Request → DriveNo → Option Byte → Requester → Instr
  | .mount => .mount
  | .flush => .flush
  | .freeze => .freeze
  | .thaw => .thaw
  | .release => .release
  | .reclaim => .reclaim
  | .discard => .discard

/-- The Control Block write that a command is: its word offset, its enabled bytes and its requester; absent for every other
command (R146, R147). -/
def cbWriteOf : Instr → Option (Nat × Lanes × Requester)
  | .mount d c r => some (recordOffset d, { lo := some 1, hi := c }, r)
  | .flush d c r => some (recordOffset d, { lo := some 2, hi := c }, r)
  | .freeze d c r => some (recordOffset d, { lo := some 3, hi := c }, r)
  | .thaw d c r => some (recordOffset d, { lo := some 4, hi := c }, r)
  | .release d c r => some (recordOffset d, { lo := some 5, hi := c }, r)
  | .reclaim d c r => some (recordOffset d, { lo := some 6, hi := c }, r)
  | .discard d c r => some (recordOffset d, { lo := some 7, hi := c }, r)
  | .unknownRequest d v c r => some (recordOffset d, { lo := some v, hi := c }, r)
  | .outcomeClear d low high r => some (recordOffset d + 0x12, zeroLanes low high, r)
  | .faultRecordClear f low high r => some (0x140 + f.val * 0x10, zeroLanes low high, r)
  | .settingsWrite pair l r => some (0x10 + 2 * pair.val, l, r)
  | .classTableWrite pair l r => some (0x20 + 2 * pair.val, l, r)
  | .writeAllowWrite d v q r => some (recordOffset d + 0x08, { lo := q, hi := some v }, r)
  | .guardFieldWrite d .extentEnd l r => some (recordOffset d + 0x0A, l, r)
  | .guardFieldWrite d .complement l r => some (recordOffset d + 0x0C, l, r)
  | .guardFieldWrite d .exempt l r => some (recordOffset d + 0x0E, l, r)
  | .guardLockWrite d v c r => some (recordOffset d + 0x0C, { lo := c, hi := some v }, r)
  | .controlBlockWrite i l r => some (2 * i.val, l, r)
  | _ => none

/-- While watching runs, an aperture cycle at an address passes the checks of the requester class, the volume and the bounds,
and this access is what it decomposes into (R19, R26 to R29). -/
def State.Admits (s : State) (addr : Address) (low : Bool) (a : Access) : Prop :=
  s.phase = .running ∧ Config.apertureBase ≤ wordAddress addr ∧ a.drive = windowDrive (wordAddress addr) ∧
    s.classOf a.requester = some a.cls ∧ a.drive.val < s.straps.drives ∧ s.volume a.drive ≠ .unmounted ∧
    s.volume a.drive ≠ .mounting ∧
    ∃ g, s.geometry[a.drive] = some g ∧ volumeOffset (cycleAddress (wordAddress addr) low) < g.volumeSize ∧
      a.place = g.place (volumeOffset (cycleAddress (wordAddress addr) low))

/-- A write is permitted: write allow is on, and the notch latch of a drive that holds a diskette reads writable (R30). -/
abbrev State.MayWrite (s : State) (d : DriveNo) : Prop :=
  s.records[d].host.writeAllow = true ∧ (s.drives[d].media = .noMedia ∨ s.drives[d].notch = false)

/-- The guard lets a requester's write to a cylinder pass (R31). -/
abbrev State.GuardPasses (s : State) (d : DriveNo) (r : Requester) (c : Nat) : Prop :=
  s.records[d].host.guards c = false ∨ s.records[d].host.guardExempt.getLsbD r.val = true

/-- The access is found in a slot: the slot that is not FREE and holds its key; in a LOST or RECLAIMING volume a STRANDED one
(R33, R38). -/
def State.Hits (s : State) (a : Access) (k : Nat) : Prop :=
  s.lookup a.key = some k ∧ (s.volumeLost a.drive = true → (s.slot k).state = .stranded)

/-- The entry of the Waiter Table that begins a wait of an access (R60, R62). -/
def Access.newWait (a : Access) (h : Hold) (start : Stamp) : WaiterEntry :=
  .wait { key := a.key, sector := a.place.sector, write := a.write, cls := a.cls, start := start, status := .hold h, exceeded := false }

/-- The command that is an access. -/
def Access.isCommand (a : Access) (addr : Address) (low : Bool) (c : Instr) : Prop :=
  match a.lanes with
  | none => ∃ high, (low || high) = true ∧ c = .apertureRead addr low high a.requester
  | some l => l.enabled = true ∧ low = l.lo.isSome ∧ c = .apertureWrite addr l a.requester

/-- The sweep direction, inward or not, with which a drive's only operation is chosen: the present one where the target lies that
way, the other where it does not, and inward while the head position is unknown (R81; log 33). -/
def Drive.sweepTo (v : Drive) (cylinder : Nat) : Bool :=
  match v.head with
  | none => true
  | some h => if v.inward = true then decide (h ≤ cylinder) else decide (h < cylinder)

/-- The operation with which a drive whose motor is stopped begins its work: queued at the event and chosen at once, the
motor starting for it (R76, R81, R82, R114, R116). -/
def Drive.startedFor (v : Drive) (o : Op) (now : Stamp) : Drive :=
  { v with
    queue := [{ o with enqueued := now, promoted := now, phase := .seeking }]
    current := true
    headUnload := none
    motorIdle := none
    inward := v.sweepTo o.cylinder
    move := .spinUp
    moved := false
    media := .starting
    spinUp := some now.ms }

end Sys2Proof.Machine
end

