-- ==== Sys2Proof/Certificates/Slice0/Obligations.lean ====
section
/-! DEFINITION. The statements about the model, from the numbered rules of the manual. -/

open Sys2Proof Sys2Proof.Machine

/-! ### The step and the passing of time -/

/-- A step takes the command at the front of the queue and is its effect on the state with the queue's rest. -/
def Obligations.FrontCommandRuns : Prop :=
  ∀ (c : Instr) (s : State), step { s with pending := c :: s.pending } = exec c s

/-- With nothing commanded 1 ms passes, and a default writing or a rewrite in progress stores its next word. The model's choice
(logs 4 and 6). -/
def Obligations.EmptyQueuePassesTime : Prop :=
  ∀ s : State, s.pending = [] →
    ((s.phase = .running ∨ s.phase = .draining) → step s = .next { s with now := { s.now with ms := s.now.ms + 1 } }) ∧
    ∀ n, n < 0x190 → (s.phase = .defaultWriting n ∨ s.phase = .rewriting n) →
      ∃ t, step s = .next t ∧
        t = { s with
          now := { s.now with ms := s.now.ms + 1 }
          phase := t.phase
          mem := t.mem } ∧
        (s.phase = .defaultWriting n → t.phase = .defaultWriting (n + 2)) ∧
        (s.phase = .rewriting n → t.phase = .rewriting (n + 2)) ∧
        ∀ a, Memory.read t.mem a =
          if a = s.straps.cbBase + n ∨ a = s.straps.cbBase + n + 1
          then (s.cbByte (a - s.straps.cbBase)).getD (Memory.read s.mem a) else Memory.read s.mem a

/-! ### Reset -/

/-- What power-on reset leaves in each block, as R35, R46, R47, R60, R76, R80, R92, R112, R123, R124, R149, R150 and R152 give
it. The strapped levels, the doors and the progress of the default writing are the model's choices (logs 1, 2 and 6). -/
def Obligations.ResetLeavesStartingState : Prop :=
  State.reset.layoutVersion = 0 ∧ State.reset.pending = [] ∧
    (∀ r : Requester, State.reset.waiters[r] = .empty) ∧
    State.reset.slots.length = State.reset.straps.slots ∧
    (∀ t ∈ State.reset.slots, t.state = .free ∧ t.key = none ∧ t.generation = 0 ∧ t.sectors = [] ∧ t.dirtySince = none ∧
      t.writeFailed = false ∧ t.yields = 0 ∧ t.active = none ∧ t.pendingWrite = none) ∧
    State.reset.freeList = List.range State.reset.straps.slots ∧ State.reset.recency = [] ∧
    (∀ d : DriveNo, State.reset.geometry[d] = none) ∧
    (∀ d : DriveNo, State.reset.drives[d].queue = [] ∧ State.reset.drives[d].head = none ∧
      State.reset.drives[d].inward = true ∧ State.reset.drives[d].step = none ∧ State.reset.drives[d].watch = none ∧
      State.reset.drives[d].notch = false ∧ State.reset.drives[d].spinUp = none ∧ State.reset.drives[d].headUnload = none ∧
      State.reset.drives[d].motorIdle = none ∧ State.reset.drives[d].current = false) ∧
    State.reset.pass = none ∧ State.reset.probeBuffer = List.replicate 1024 0 ∧
    (∀ d : DriveNo, State.reset.records[d].state = .unmounted ∧ State.reset.records[d].outcome = .none ∧
      State.reset.records[d].generation = 0 ∧ State.reset.records[d].stamp = none ∧ State.reset.records[d].effSize = 0 ∧
      State.reset.records[d].effInterleave = 1 ∧ State.reset.records[d].effSkew = 0 ∧
      State.reset.records[d].host.requestClass = 2 ∧
      State.reset.records[d].host.volume =
        { double := true, sizeCode := none, interleave := 1, skew := 0, stepRate := 3, verify := true, retry := 3 } ∧
      State.reset.records[d].host.writeAllow = false ∧ State.reset.records[d].host.guardExtent = 0 ∧
      State.reset.records[d].host.guardHigh = false ∧ State.reset.records[d].host.guardComplement = false ∧
      State.reset.records[d].host.guardLock = false ∧ State.reset.records[d].host.guardExempt = 1) ∧
    (∀ i : Fin 5, State.reset.faults[i] =
      { code := .none, requester := none, cylinder := none, head := none, sectorId := none, count := 0 }) ∧
    State.reset.settings =
      { writeBackDelay := 5, waiterLimit := 30, timeoutAction := 1, promotionInterval := 20, motorIdle := 30, headUnload := 50,
        settle := 20, yieldLimit := 3 } ∧
    ∀ r : Requester, State.reset.classes[r] = 2

/-- A power-on reset at any moment: the straps are latched and every block takes its starting state. Every slot is FREE, the free
list holds all of them, every table, queue and record is empty or at its power-on values, the channel is free, the probe buffer
holds zeros; of each drive the head position is unknown, the sweep inward, every timer, the index watch, the step and the seek
stopped; a strapped drive with its door closed is STOPPED with its notch latch taken from WPROT, any other is NO_MEDIA with the
latch unprotected. Watching is stopped and the default writing has begun: no byte of DRAM changes but the layout version word at
the new base, which reads 0 (R46, R76, R80, R92, R111, R112, R113, R154, R155, R159). That the contents of DRAM stay, and how far
the default writing has come, are the model's choices (logs 3 and 6). -/
def Obligations.PowerOnResetBegins : Prop :=
  ∀ (lines : BitVec 9) (doors : BitVec 4) (pins : Pins) (s : State), ∃ t, exec (.powerOnReset lines doors pins) s = .next t ∧
    t.pending = s.pending ∧ t.doors = doors ∧ t.pins = pins ∧ t.phase = .defaultWriting 2 ∧
    (t.straps.dramSize.val = (lines.extractLsb' 0 2).toNat ∧ t.straps.slotCount.val = (lines.extractLsb' 2 2).toNat ∧
      t.straps.driveCount.val = (lines.extractLsb' 4 2).toNat ∧ t.straps.base.val = (lines.extractLsb' 6 2).toNat ∧
      t.straps.spinUp = lines.getLsbD 8) ∧
    t.slots = List.replicate t.straps.slots Slot.blank ∧ t.freeList = List.range t.straps.slots ∧ t.recency = [] ∧
    (∀ r : Requester, t.waiters[r] = .empty) ∧ (∀ d : DriveNo, t.geometry[d] = none) ∧ t.pass = none ∧
    t.probeBuffer = List.replicate 1024 0 ∧
    (∀ d : DriveNo, t.drives[d].queue = [] ∧ t.drives[d].head = none ∧ t.drives[d].inward = true ∧ t.drives[d].move = .idle ∧
      t.drives[d].step = none ∧ t.drives[d].watch = none ∧ t.drives[d].spinUp = none ∧ t.drives[d].headUnload = none ∧
      t.drives[d].motorIdle = none ∧ t.drives[d].current = false ∧
      t.drives[d].media = (if d.val < t.straps.drives ∧ doors.getLsbD d.val = true then .stopped else .noMedia) ∧
      (t.drives[d].notch = true ↔ d.val < t.straps.drives ∧ doors.getLsbD d.val = true ∧ pins.wprot.getLsbD d.val = true)) ∧
    (∀ d : DriveNo, t.records[d] = MountRecord.initial) ∧ (∀ i : Fin 5, t.faults[i] = FaultRecord.empty) ∧
    t.settings = Settings.initial ∧ (∀ r : Requester, t.classes[r] = 2) ∧ t.layoutVersion = 0 ∧ t.attention = false ∧
    ∀ a, Memory.read t.mem a =
      if a = t.straps.cbBase ∨ a = t.straps.cbBase + 1 then 0 else Memory.read s.mem a

/-- The end of the default writing and the end of the rewrite: the layout version becomes 1, watching resumes, the RESET_HOLD
entries become empty, and what DRAM shows of the block from the word to be stored next on is what the part's copies give
(R73, R155, R158). -/
def Obligations.WritingEndResumesWatching : Prop :=
  ∀ (s : State) (n : Nat),
    (s.phase = .defaultWriting n ∨ s.phase = .rewriting n) →
    ∃ t, exec (match s.phase with
        | .defaultWriting _ => .defaultWritingEnd
        | _ => .resetFlushRewriteEnd) s = .next t ∧
      t = { s with
        now := s.eventStamp
        phase := .running
        layoutVersion := 1
        waiters := updAll s.waiters (fun e => if e = .resetHold then .empty else e)
        mem := t.mem } ∧
      (∀ a, ¬ s.inControlBlock a → Memory.read t.mem a = Memory.read s.mem a) ∧
      ∀ o b, (n ≤ o ∨ s.cbByte o ≠ t.cbByte o) → t.cbByte o = some b → t.shown o = b

/-- A bus reset while watching runs begins reset-flush: watching stops, the layout version word becomes 0, the Waiter Table is
emptied, every FILL and PROBE is dropped, and no byte below the slot pool changes but in the Control Block; during the drain the
Settings, the class table and the host-owned fields but for the guard lock stay in force (R89, R126, R156). Where the drain ends
at this very event, the part's copies of the Settings and the classes have their defaults at once, and the attention line is low:
that the copies take the rewrite's values then, and not when the rewrite stores them, is the model's choice (log 29, from R158).
In the second part, that a choice with the head position unknown leaves the sweep inward is the model's choice too (log 33).
A part whose drives are at rest, with one RESIDENT slot that holds a DIRTY sector on a volume not LOST: a WRITE with class URGENT
is asked for the slot, its write-failed flag is cleared, and on a drive with its motor stopped the WRITE is chosen and starts the
motor; the volumes keep their states (R76, R81, R143, R156). -/
def Obligations.BusResetStopsWatching : Prop :=
  (∀ s : State, s.phase = .running → ∃ t, exec .busReset s = .next t ∧
    (t.phase = .draining ∨ t.phase = .rewriting 2) ∧ t.layoutVersion = 0 ∧ t.straps = s.straps ∧ t.pending = s.pending ∧
    (∀ r : Requester, t.waiters[r] = .empty) ∧ (∀ (d : DriveNo) (o : Op), o ∈ t.drives[d].queue → o.work.isWrite = true) ∧
    (t.phase = .draining → t.settings = s.settings ∧ t.classes = s.classes ∧
      ∀ d : DriveNo, { t.records[d].host with guardLock := false } = { s.records[d].host with guardLock := false }) ∧
    (t.phase = .rewriting 2 → t.settings = Settings.initial ∧ (∀ r : Requester, t.classes[r] = 2) ∧ t.attention = false) ∧
    (s.layoutVersion = 1 → t.shown 0 = 0) ∧
    ∀ a, a < s.straps.poolBase → ¬ s.inControlBlock a → Memory.read t.mem a = Memory.read s.mem a) ∧
  ∀ (k : Nat) (key : Key) (s : State), s.Idle → k < s.slots.length → (s.slot k).key = some key → (s.slot k).state = .resident →
    (s.slot k).dirty = true → (∀ j, j ≠ k → (s.slot j).dirty = false) → (∀ j, (s.slot j).pendingWrite = none) →
    (∀ d : DriveNo, s.records[d].pendingDiscard = false ∧
      (s.volume d = .unmounted ∨ s.volume d = .mounted ∨ s.volume d = .frozen ∨ s.volume d = .lost)) →
    s.volume key.drive ≠ .lost → s.drives[key.drive].media = .stopped →
    ∃ t, exec .busReset s = .next t ∧
      t = { s with
        now := s.eventStamp
        phase := .draining
        layoutVersion := 0
        waiters := Vector.replicate 8 .empty
        slots := s.slots.modify k (fun x => { x with writeFailed := false })
        drives := upd s.drives key.drive (fun v => v.startedFor
          { work := .write k (s.slot k).generation false, reason := some .reset, cylinder := key.cylinder, head := key.head,
            cls := .urgent, enqueued := s.eventStamp, promoted := s.eventStamp, phase := .seeking } s.eventStamp)
        mem := t.mem } ∧
      s.Stores t

/-- A bus reset of a part with nothing to write, its drives at rest: the drain ends at the bus reset event itself. Every RESIDENT
slot becomes FREE and joins the free list in ascending number, every STRANDED slot stays as it is with its bytes; a volume that
keeps a STRANDED slot stays LOST with its host fields, stamp, generation and geometry copy, every other volume becomes UNMOUNTED;
the Waiter Table is emptied and the rewrite begins (R46, R156, R157, R158). The drain of one WRITE that fails, its drive not
coming ready: the slot keeps its DIRTY sectors and becomes STRANDED, its volume LOST, and the rewrite begins (R57, R114, R157,
R158). That the part's copies have the rewrite's values (records, Fault Records, Settings and classes) already at the event that
ends the drain is the model's choice (log 29). -/
def Obligations.BusResetOfCleanPart : Prop :=
  (∀ s : State, s.Idle →
    (∀ k, k < s.slots.length →
      ((s.slot k).state = .free ∧ (s.slot k).key = none ∧ (s.slot k).pendingWrite = none) ∨
      ((s.slot k).state = .resident ∧ (s.slot k).dirty = false ∧ (s.slot k).key ≠ none) ∨
      ((s.slot k).state = .stranded ∧ (s.slot k).pendingWrite = none ∧
        ∃ key, (s.slot k).key = some key ∧ s.volume key.drive = .lost)) →
    (∀ d : DriveNo, s.volume d = .unmounted ∨ s.volume d = .mounted ∨ s.volume d = .frozen ∨ s.volume d = .lost) →
    ∃ t, exec .busReset s = .next t ∧
      t = { s with
        now := s.eventStamp
        phase := .rewriting 2
        layoutVersion := 0
        waiters := Vector.replicate 8 .empty
        slots := t.slots
        freeList := s.freeList ++ s.slotsWhere (fun _ x => decide (x.state = .resident))
        recency := (s.slotsWhere (fun _ x => decide (x.state = .resident))).foldl (fun r k => r.erase k) s.recency
        geometry := t.geometry
        records := t.records
        faults := Vector.replicate 5 FaultRecord.empty
        settings := Settings.initial
        classes := Vector.replicate 8 2
        mem := t.mem } ∧
      t.slots.length = s.slots.length ∧
      (∀ k, k < s.slots.length →
        ((s.slot k).state = .resident → (t.slot k).state = .free ∧ (t.slot k).key = none ∧ (t.slot k).sectors = [] ∧
          (t.slot k).generation = (s.slot k).generation) ∧
        ((s.slot k).state ≠ .resident → t.slot k = s.slot k)) ∧
      (∀ d : DriveNo,
        ((∃ k, k < s.slots.length ∧ (s.slot k).state = .stranded ∧ (s.slot k).onDrive d = true) →
          t.records[d] = { s.records[d] with outcome := .none, pendingDiscard := false } ∧ t.geometry[d] = s.geometry[d]) ∧
        ((∀ k, k < s.slots.length → (s.slot k).state = .stranded → (s.slot k).onDrive d = false) →
          t.records[d] = MountRecord.initial ∧ t.geometry[d] = none)) ∧
      t.attention = false ∧
      ∀ a, ¬ s.inControlBlock a → Memory.read t.mem a = Memory.read s.mem a) ∧
  ∀ (d : DriveNo) (pins : Pins) (k : Nat) (key : Key) (o : Op) (t0 : Nat) (s : State), s.phase = .draining →
    k < s.slots.length → (s.slot k).key = some key → key.drive = d → (s.slot k).state = .resident → (s.slot k).dirty = true →
    (∀ e ∈ (s.slot k).sectors, e.state = .valid ∨ e.state = .dirty ∨ e.state = .damaged) →
    (∀ j, j < s.slots.length → j ≠ k → (s.slot j).state = .free ∧ (s.slot j).key = none) → s.NoSlotWaits →
    (∀ e : DriveNo, e ≠ d → s.drives[e].Resting) →
    (∀ e : DriveNo, s.volume e = .unmounted ∨ s.volume e = .mounted ∨ s.volume e = .frozen ∨ s.volume e = .lost) →
    s.volume d = .mounted → s.records[d].flushSet = [] → s.records[d].pendingDiscard = false →
    s.drives[d].queue = [o] → o.work.slot? = some k → o.work.isWrite = true → o.phase = .seeking → s.drives[d].current = true →
    s.drives[d].media = .starting → s.drives[d].spinUp = some t0 → s.drives[d].watch = none →
    pins.ready.getLsbD d.val = false →
    ∃ t, exec (.spinUpExpiry d pins) s = .next t ∧
      t.phase = .rewriting 2 ∧
      t.slot k = { s.slot k with
        state := .stranded, dirtySince := none, writeFailed := true, yields := 0, active := none, pendingWrite := none } ∧
      (∀ j, j ≠ k → t.slot j = s.slot j) ∧ t.freeList = s.freeList ∧ t.recency = s.recency ∧
      t.records[d] = { s.records[d] with state := .lost, outcome := .none } ∧ t.geometry[d] = s.geometry[d] ∧
      (∀ e : DriveNo, e ≠ d → t.records[e] = MountRecord.initial ∧ t.geometry[e] = none) ∧
      t.drives[d].queue = [] ∧ t.drives[d].media = .stopped ∧ t.drives[d].current = false ∧
      (∀ e : DriveNo, e ≠ d → t.drives[e] = s.drives[e]) ∧ (∀ i : Fin 5, t.faults[i] = FaultRecord.empty) ∧
      t.settings = Settings.initial ∧ (∀ r : Requester, t.classes[r] = 2) ∧
      ∀ a, ¬ s.inControlBlock a → Memory.read t.mem a = Memory.read s.mem a

/-- A bus reset during reset-flush or during the default writing has no effect, and the default writing's end makes watching
resume with the layout version 1 (R159). -/
def Obligations.BusResetDuringResetHasNoEffect : Prop :=
  ∀ s : State,
    ((s.phase = .draining ∨ ∃ n, s.phase = .rewriting n) → exec .busReset s = .next s) ∧
    ∀ n, s.phase = .defaultWriting n →
      exec .busReset s = .next s ∧
        ∃ t, exec .defaultWritingEnd s = .next t ∧ t.phase = .running ∧ t.layoutVersion = 1

/-! ### Bus cycles -/

/-- A cycle without a byte enable is answered DONE at once, a read carrying FFFFh, and changes no state of any block (R1). -/
def Obligations.NoEnableCycleAnswersDone : Prop :=
  ∀ (a : Address) (data : Option Word) (r : Requester) (s : State),
    exec (.noEnableCycle a data r) s =
      .next { s with answer := some (.done (if data.isSome = true then none else some 0xFFFF#16)) }

/-- The class of a cycle by its word address, in the order of R6; and the map changes at a power-on reset alone. -/
def Obligations.CyclesClassifiedByAddress : Prop :=
  (∀ (p : Straps) (w : Nat),
    (0x800000 ≤ w → p.classify w = .aperture) ∧
    (w < 0x800000 → p.poolBase ≤ w → p.classify w = .unpopulated) ∧
    (w < 0x800000 → w < p.poolBase → p.cbBase ≤ w ∧ w ≤ p.cbBase + 511 → p.classify w = .controlBlock) ∧
    (w < 0x800000 → w < p.poolBase → ¬ (p.cbBase ≤ w ∧ w ≤ p.cbBase + 511) → p.classify w = .ordinary)) ∧
  ∀ (c : Instr) (s t : State), exec c s = .next t → (∀ lines doors pins, c ≠ .powerOnReset lines doors pins) →
    t.straps = s.straps

/-- An ordinary cycle goes straight to DRAM at every time, and changes nothing else (R7); a Control Block read does as an
ordinary read does, by the same row, since the address decides the class (R8; log 8). -/
def Obligations.OrdinaryCycleReachesDram : Prop :=
  ∀ (a : Address) (r : Requester) (s : State),
    ((s.straps.classify (wordAddress a) = .ordinary ∨ s.straps.classify (wordAddress a) = .controlBlock) →
      ∀ low high, (low || high) = true →
        exec (.ordinaryCycle a (.read low high) r) s =
          .next { s with
            answer := some (.done (some (wordOf (Memory.read s.mem (wordAddress a)) (Memory.read s.mem (wordAddress a + 1))))) }) ∧
    (s.straps.classify (wordAddress a) = .ordinary → ∀ l : Lanes, l.enabled = true → ∃ t, exec (.ordinaryCycle a (.write l) r) s = .next t ∧
      t = { s with mem := t.mem, answer := some (.done none) } ∧
      ∀ x, Memory.read t.mem x =
        if x = wordAddress a then l.lo.getD (Memory.read s.mem x)
        else if x = wordAddress a + 1 then l.hi.getD (Memory.read s.mem x) else Memory.read s.mem x)

/-- An unpopulated cycle: DONE, a read with FFFFh, and UNPOPULATED reported to the global Fault Record (R10, R152). -/
def Obligations.UnpopulatedCycleReported : Prop :=
  ∀ (a : Address) (op : BusOp) (r : Requester) (s : State), op.enabled = true →
    s.straps.classify (wordAddress a) = .unpopulated →
    ∃ t, exec (.unpopulatedCycle a op r) s = .next t ∧
      t = { s with
        now := s.eventStamp
        faults := upd s.faults 4 (fun f =>
          if f.code = .none then
            { code := .unpopulated, requester := some r, cylinder := none, head := none, sectorId := none, count := 0 }
          else { f with count := if f.count = 255 then 255 else f.count + 1 })
        answer := some (.done (match op with
          | .read _ _ => some 0xFFFF#16
          | .write _ => none))
        mem := t.mem } ∧
      s.Stores t

/-- Aperture cycles during the default writing and during reset-flush: RETRY without the Window Translator; in reset-flush the
requester's entry becomes RESET_HOLD (R12, R73). -/
def Obligations.ApertureHeldOffDuringReset : Prop :=
  ∀ (addr : Address) (low high : Bool) (l : Lanes) (r : Requester) (s : State), 0x800000 ≤ wordAddress addr →
    (low || high) = true → l.enabled = true →
    (∀ n, s.phase = .defaultWriting n →
      exec (.apertureRead addr low high r) s = .next { s with answer := some .retry } ∧
      exec (.apertureWrite addr l r) s = .next { s with answer := some .retry }) ∧
    ((s.phase = .draining ∨ ∃ n, s.phase = .rewriting n) →
      exec (.apertureRead addr low high r) s =
        .next { s with waiters := upd s.waiters r (fun _ => .resetHold), answer := some .retry } ∧
      exec (.apertureWrite addr l r) s =
        .next { s with waiters := upd s.waiters r (fun _ => .resetHold), answer := some .retry })

/-! ### The checks on an aperture access -/

/-- The refusals of the first three checks: a BARRED requester, a drive with no volume to serve, an offset beyond the volume;
each is answered FAULT and reported to the drive's record without a position, and empties the requester's entry (R26 to R29,
R34, R63). -/
def Obligations.ApertureRefusals : Prop :=
  ∀ (addr : Address) (c : Instr) (low : Bool) (r : Requester) (s : State) (code : FaultCode), s.phase = .running →
    0x800000 ≤ wordAddress addr →
    ((∃ high, (low || high) = true ∧ c = .apertureRead addr low high r) ∨
      ∃ l : Lanes, l.enabled = true ∧ low = l.lo.isSome ∧ c = .apertureWrite addr l r) →
    ((code = .barred ∧ s.classOf r = none) ∨
      (code = .noVolume ∧ s.classOf r ≠ none ∧
        (s.straps.drives ≤ (windowDrive (wordAddress addr)).val ∨ s.volume (windowDrive (wordAddress addr)) = .unmounted ∨
          s.volume (windowDrive (wordAddress addr)) = .mounting)) ∨
      (code = .beyondVolume ∧ s.classOf r ≠ none ∧ (windowDrive (wordAddress addr)).val < s.straps.drives ∧
        s.volume (windowDrive (wordAddress addr)) ≠ .unmounted ∧ s.volume (windowDrive (wordAddress addr)) ≠ .mounting ∧
        ∃ g, s.geometry[windowDrive (wordAddress addr)] = some g ∧
          g.volumeSize ≤ volumeOffset (cycleAddress (wordAddress addr) low))) →
    ∃ t, exec c s = .next t ∧
      t = { s with
        now := s.eventStamp
        faults := upd s.faults (Fin.castSucc (windowDrive (wordAddress addr))) (fun f =>
          f.take { code := code, requester := some r, cylinder := none, head := none, sectorId := none })
        waiters := upd s.waiters r (fun _ => .empty)
        answer := some .fault
        mem := t.mem } ∧
      s.Stores t

/-- A write that the write permission or the guard turns away is dropped: DONE, nothing stored, PROTECTED reported with the
position of the addressed byte (R30, R31, R34). -/
def Obligations.ProtectedWriteDropped : Prop :=
  ∀ (addr : Address) (l : Lanes) (a : Access) (s : State), s.Admits addr l.lo.isSome a → a.lanes = some l →
    l.enabled = true → (¬ s.MayWrite a.drive ∨ ¬ s.GuardPasses a.drive a.requester a.place.cylinder) →
    ∃ t, exec (.apertureWrite addr l a.requester) s = .next t ∧
      t = { s with
        now := s.eventStamp
        faults := upd s.faults (Fin.castSucc a.drive) (fun f =>
          f.take { code := .writeDropped, requester := some a.requester, cylinder := some a.place.cylinder,
                   head := some a.place.head, sectorId := some a.place.sectorId })
        waiters := upd s.waiters a.requester (fun _ => .empty)
        answer := some (.done none)
        mem := t.mem } ∧
      s.Stores t

/-- A write to a volume that is FREEZING, FROZEN or RELEASING is held: RETRY, nothing stored, the entry recorded WRITE_HOLD; a
reissue of the same held access keeps its wait start and its exceeded marker (R32, R62). -/
def Obligations.WriteHeldWhileFrozen : Prop :=
  ∀ (addr : Address) (l : Lanes) (a : Access) (s : State), s.Admits addr l.lo.isSome a → a.lanes = some l →
    l.enabled = true → s.MayWrite a.drive → s.GuardPasses a.drive a.requester a.place.cylinder →
    (s.volume a.drive = .freezing ∨ s.volume a.drive = .frozen ∨ s.volume a.drive = .releasing) →
    (s.waiters[a.requester] = .empty →
      exec (.apertureWrite addr l a.requester) s =
        .next { s with
          now := s.eventStamp
          waiters := upd s.waiters a.requester (fun _ => a.newWait .writeHold s.eventStamp)
          answer := some .retry }) ∧
    ∀ (w : Waiter) (h : Hold), s.waiters[a.requester] = .wait w → w.key = a.key → w.sector = a.place.sector →
      w.status = .hold h →
      exec (.apertureWrite addr l a.requester) s =
        .next { s with
          now := s.eventStamp
          waiters := upd s.waiters a.requester (fun _ =>
            .wait { key := a.key, sector := a.place.sector, write := true, cls := a.cls, start := w.start,
                    status := .hold .writeHold, exceeded := w.exceeded })
          answer := some .retry }

/-! ### Served accesses, misses and waits -/

/-- A read of a sector that is VALID, DIRTY, OUTBOUND or WRITTEN is served: DONE with the word at the slot address, the slot
moves to the front of the recency order, the entry is emptied, nothing else changes. A read of a DAMAGED sector is served
alike, and READ_DAMAGED is reported while the sector's marker is set, which clears it (R25, R39, R40, R47, R63). -/
def Obligations.ApertureReadServed : Prop :=
  ∀ (addr : Address) (low high : Bool) (a : Access) (k : Nat) (s : State), s.Admits addr low a → a.lanes = none →
    (low || high) = true → s.waiters[a.requester].failedFor a.key a.place.sector = none → s.Hits a k →
    ((((s.slot k).sector a.place.sector).state = .valid ∨ ((s.slot k).sector a.place.sector).state = .dirty ∨
      ((s.slot k).sector a.place.sector).state = .outbound ∨ ((s.slot k).sector a.place.sector).state = .written ∨
      (((s.slot k).sector a.place.sector).state = .damaged ∧ ((s.slot k).sector a.place.sector).report = false)) →
    exec (.apertureRead addr low high a.requester) s =
      .next { s with
        now := s.eventStamp
        recency := k :: s.recency.erase k
        waiters := upd s.waiters a.requester (fun _ => .empty)
        answer := some (.done (some (wordOf
          (Memory.read s.mem (s.straps.poolBase + k * 8192 + (a.place.offset - a.place.offset % 2)))
          (Memory.read s.mem (s.straps.poolBase + k * 8192 + (a.place.offset - a.place.offset % 2) + 1))))) }) ∧
    (((s.slot k).sector a.place.sector).state = .damaged → ((s.slot k).sector a.place.sector).report = true →
    ∃ t, exec (.apertureRead addr low high a.requester) s = .next t ∧
      t = { s with
        now := s.eventStamp
        faults := upd s.faults (Fin.castSucc a.drive) (fun f =>
          f.take { code := .readDamaged, requester := some a.requester, cylinder := some a.place.cylinder,
                   head := some a.place.head, sectorId := some a.place.sectorId })
        slots := s.slots.modify k (fun x => x.setSector a.place.sector (fun e => { e with report := false }))
        recency := k :: s.recency.erase k
        waiters := upd s.waiters a.requester (fun _ => .empty)
        answer := some (.done (some (wordOf
          (Memory.read s.mem (s.straps.poolBase + k * 8192 + (a.place.offset - a.place.offset % 2)))
          (Memory.read s.mem (s.straps.poolBase + k * 8192 + (a.place.offset - a.place.offset % 2) + 1)))))
        mem := t.mem } ∧
      s.Stores t)

/-- A write accepted into a slot without an age write-back becoming due: the enabled bytes are stored at the slot address, the
sector becomes DIRTY with its marker clear, but stays OUTBOUND where it is, the write-failed flag is cleared, and the dirty-since
time begins where a RESIDENT slot held no DIRTY sector and stays as it is elsewhere (R25, R41, R47, R139, R141). A write to the
active sector of a slot is held: RETRY, nothing stored, the entry recorded ON_ACTIVE (R41, R42, R62). -/
def Obligations.ApertureWriteAccepted : Prop :=
  ∀ (addr : Address) (l : Lanes) (a : Access) (k : Nat) (s : State), s.Admits addr l.lo.isSome a → a.lanes = some l →
    l.enabled = true → s.MayWrite a.drive → s.GuardPasses a.drive a.requester a.place.cylinder →
    s.volume a.drive ≠ .freezing → s.volume a.drive ≠ .frozen → s.volume a.drive ≠ .releasing → s.Hits a k →
    (∀ since : Option Nat, s.waiters[a.requester].failedFor a.key a.place.sector = none → k < s.slots.length →
      a.place.sector < (s.slot k).sectors.length →
      (((s.slot k).sector a.place.sector).state = .valid ∨ ((s.slot k).sector a.place.sector).state = .dirty ∨
        ((s.slot k).sector a.place.sector).state = .outbound ∨ ((s.slot k).sector a.place.sector).state = .written ∨
        ((s.slot k).sector a.place.sector).state = .damaged) →
      (s.slot k).active ≠ some a.place.sector →
      since = (if (s.slot k).state = .resident ∧ (s.slot k).dirty = false then some s.now.ms else (s.slot k).dirtySince) →
      ((s.slot k).state ≠ .resident ∨ s.link k ≠ none ∨
        ∀ m, since = some m → s.now.ms < m + s.settings.writeBackDelay.toNat * 1000) →
      ∃ t, exec (.apertureWrite addr l a.requester) s = .next t ∧
        t = { s with
          now := s.eventStamp
          slots := s.slots.modify k (fun x =>
            { (x.setSector a.place.sector (fun e => if e.state = .outbound then e else { state := .dirty, report := false })) with
              writeFailed := false
              dirtySince := since })
          recency := k :: s.recency.erase k
          waiters := upd s.waiters a.requester (fun _ => .empty)
          answer := some (.done none)
          mem := t.mem } ∧
        (∀ x, ¬ s.inControlBlock x → Memory.read t.mem x =
          if x = s.straps.poolBase + k * 8192 + (a.place.offset - a.place.offset % 2) then l.lo.getD (Memory.read s.mem x)
          else if x = s.straps.poolBase + k * 8192 + (a.place.offset - a.place.offset % 2) + 1 then
            l.hi.getD (Memory.read s.mem x)
          else Memory.read s.mem x) ∧
        ∀ o, o < 512 → t.shown o = s.refreshed t o) ∧
    (s.waiters[a.requester] = .empty → ((s.slot k).sector a.place.sector).state ≠ .absent →
      (s.slot k).active = some a.place.sector →
      exec (.apertureWrite addr l a.requester) s =
        .next { s with
          now := s.eventStamp
          waiters := upd s.waiters a.requester (fun _ => a.newWait .onActive s.eventStamp)
          answer := some .retry })

/-- An access to an ABSENT sector is held ON_FILL and raises the class of the key's FILL (R39, R41, R62, R66, R78). -/
def Obligations.AbsentSectorHeld : Prop :=
  ∀ (addr : Address) (low : Bool) (a : Access) (k : Nat) (c : Instr) (s : State), s.Admits addr low a →
    a.isCommand addr low c →
    (a.write = true → s.MayWrite a.drive ∧ s.GuardPasses a.drive a.requester a.place.cylinder ∧
      s.volume a.drive ≠ .freezing ∧ s.volume a.drive ≠ .frozen ∧ s.volume a.drive ≠ .releasing) →
    s.waiters[a.requester] = .empty → s.Hits a k → ((s.slot k).sector a.place.sector).state = .absent →
    exec c s =
      .next { s with
        now := s.eventStamp
        waiters := upd s.waiters a.requester (fun _ => a.newWait .onFill s.eventStamp)
        drives := upd s.drives a.drive (fun v =>
          { v with
            queue := v.queue.map (fun o =>
              if o.work.slot? = some k ∧ o.work.isFill = true then { o with cls := o.cls.max a.cls } else o) })
        answer := some .retry }

/-- A read miss with a free slot, of a drive whose motor is stopped and which has no operation: the head of the free list is
assigned to the key and FILLING, every sector ABSENT, the FILL is queued and chosen and starts the motor, and the access is
held ON_FILL (R43, R44, R62, R76, R81, R82, R114, R116). A read miss that finds no free slot and none to reuse becomes a slot-wait:
the least recent slot that may be written is given an eviction WRITE with the class of the access, on a drive with its motor
stopped chosen and starting the motor; with no such slot SLOT_STARVED is reported with the access's position (R43, R45, R142). That a choice with the head position
unknown leaves the sweep inward is the model's choice (log 33). -/
def Obligations.ReadMissStartsFill : Prop :=
  (∀ (addr : Address) (low high : Bool) (a : Access) (k : Nat) (rest : List Nat) (g : Geometry) (s : State),
    s.Admits addr low a → a.lanes = none → (low || high) = true → s.Steady → s.geometry[a.drive] = some g →
    (s.volume a.drive = .mounted ∨ s.volume a.drive = .flushing ∨ s.volume a.drive = .frozen) →
    s.waiters[a.requester] = .empty → s.lookup a.key = none → s.freeList = k :: rest → k < s.slots.length →
    s.drives[a.drive].queue = [] → s.drives[a.drive].media = .stopped →
    ∃ t, exec (.apertureRead addr low high a.requester) s = .next t ∧
      t = { s with
        now := s.eventStamp
        slots := s.slots.modify k (fun _ =>
          { state := .filling, key := some a.key, generation := s.records[a.drive].generation,
            sectors := List.replicate (sectorsPerTrack g.size) { state := .absent, report := false },
            dirtySince := none, writeFailed := false, yields := 0, active := none, pendingWrite := none })
        freeList := rest
        recency := k :: s.recency.erase k
        waiters := upd s.waiters a.requester (fun _ => a.newWait .onFill s.eventStamp)
        drives := upd s.drives a.drive (fun v => v.startedFor
          { work := .fill k s.records[a.drive].generation, reason := none, cylinder := a.place.cylinder, head := a.place.head,
            cls := a.cls, enqueued := s.eventStamp, promoted := s.eventStamp, phase := .seeking } s.eventStamp)
        answer := some .retry
        mem := t.mem } ∧
      s.Stores t) ∧
  ∀ (addr : Address) (low high : Bool) (a : Access) (s : State),
    s.Admits addr low a → a.lanes = none → (low || high) = true → s.Steady →
    (s.volume a.drive = .mounted ∨ s.volume a.drive = .flushing ∨ s.volume a.drive = .frozen) →
    s.waiters[a.requester] = .empty → s.lookup a.key = none → s.freeList = [] → (∀ j ∈ s.recency, ¬ s.Reusable j) →
    ((∀ j ∈ s.recency, ¬ s.Evictable j) →
      ∃ t, exec (.apertureRead addr low high a.requester) s = .next t ∧
        t = { s with
          now := s.eventStamp
          faults := upd s.faults (Fin.castSucc a.drive) (fun f =>
            f.take { code := .slotStarved, requester := some a.requester, cylinder := some a.place.cylinder,
                     head := some a.place.head, sectorId := some a.place.sectorId })
          waiters := upd s.waiters a.requester (fun _ => a.newWait .slotWait s.eventStamp)
          answer := some .retry
          mem := t.mem } ∧
        s.Stores t) ∧
    ∀ (k : Nat) (newer older : List Nat) (key : Key), s.recency = newer ++ k :: older → s.Evictable k →
      (∀ j ∈ older, ¬ s.Evictable j) → (s.slot k).key = some key → s.drives[key.drive].queue = [] →
      s.drives[key.drive].media = .stopped →
      ∃ t, exec (.apertureRead addr low high a.requester) s = .next t ∧
        t = { s with
          now := s.eventStamp
          waiters := upd s.waiters a.requester (fun _ => a.newWait .slotWait s.eventStamp)
          drives := upd s.drives key.drive (fun v => v.startedFor
            { work := .write k (s.slot k).generation true, reason := some .evict, cylinder := key.cylinder, head := key.head,
              cls := a.cls, enqueued := s.eventStamp, promoted := s.eventStamp, phase := .seeking } s.eventStamp)
          answer := some .retry
          mem := t.mem } ∧
        s.Stores t

/-- A reissue that finds its wait expired on an ABSENT sector: WAIT_EXCEEDED is reported; GIVE_UP answers DONE, a read with
FFFFh, and empties the entry; HOLD answers RETRY and holds the access on with its exceeded marker set (R68, R69, R70). -/
def Obligations.ExpiredWaitAnswered : Prop :=
  ∀ (addr : Address) (low high : Bool) (a : Access) (k : Nat) (w : Waiter) (h : Hold) (s : State), s.Admits addr low a →
    a.lanes = none → (low || high) = true → s.Hits a k → ((s.slot k).sector a.place.sector).state = .absent →
    s.waiters[a.requester] = .wait w → w.key = a.key → w.sector = a.place.sector → w.status = .expired h →
    (s.settings.timeoutAction = 1 → ∃ t, exec (.apertureRead addr low high a.requester) s = .next t ∧
      t = { s with
        now := s.eventStamp
        faults := upd s.faults (Fin.castSucc a.drive) (fun f =>
          f.take { code := .waitExceeded, requester := some a.requester, cylinder := some a.place.cylinder,
                   head := some a.place.head, sectorId := some a.place.sectorId })
        waiters := upd s.waiters a.requester (fun _ => .empty)
        answer := some (.done (some 0xFFFF#16))
        mem := t.mem } ∧
      s.Stores t) ∧
    (s.settings.timeoutAction = 0 → ∃ t, exec (.apertureRead addr low high a.requester) s = .next t ∧
      t = { s with
        now := s.eventStamp
        faults := upd s.faults (Fin.castSucc a.drive) (fun f =>
          f.take { code := .waitExceeded, requester := some a.requester, cylinder := some a.place.cylinder,
                   head := some a.place.head, sectorId := some a.place.sectorId })
        waiters := upd s.waiters a.requester (fun _ =>
          .wait { key := a.key, sector := a.place.sector, write := false, cls := a.cls, start := w.start,
                  status := .hold .onFill, exceeded := true })
        drives := upd s.drives a.drive (fun v =>
          { v with
            queue := v.queue.map (fun o =>
              if o.work.slot? = some k ∧ o.work.isFill = true then { o with cls := o.cls.max a.cls } else o) })
        answer := some .retry
        mem := t.mem } ∧
      s.Stores t)

/-- A reissue that finds its wait failed is answered FAULT and empties the entry; the failure of a drive operation is not
reported again, VOLUME_LOST and NO_VOLUME are reported with the access's position (R65). -/
def Obligations.FailedWaitAnswered : Prop :=
  ∀ (addr : Address) (low high : Bool) (a : Access) (w : Waiter) (code : WaitFailure) (s : State), s.Admits addr low a →
    a.lanes = none → (low || high) = true → s.waiters[a.requester] = .wait w → w.key = a.key →
    w.sector = a.place.sector → w.status = .failed code →
    ∃ t, exec (.apertureRead addr low high a.requester) s = .next t ∧
      t = { s with
        now := s.eventStamp
        faults := (match code with
          | .drive _ => s.faults
          | .volumeLost => upd s.faults (Fin.castSucc a.drive) (fun f =>
              f.take { code := .volumeLost, requester := some a.requester, cylinder := some a.place.cylinder,
                       head := some a.place.head, sectorId := some a.place.sectorId })
          | .noVolume => upd s.faults (Fin.castSucc a.drive) (fun f =>
              f.take { code := .noVolume, requester := some a.requester, cylinder := some a.place.cylinder,
                       head := some a.place.head, sectorId := some a.place.sectorId }))
        waiters := upd s.waiters a.requester (fun _ => .empty)
        answer := some .fault
        mem := t.mem } ∧
      s.Stores t

/-! ### Control Block writes -/

/-- Every row that is a Control Block write, while watching is stopped: RETRY, nothing stored, nothing changed (R8). -/
def Obligations.ControlBlockWriteRetriedWhileStopped : Prop :=
  ∀ (c : Instr) (o : Nat) (l : Lanes) (r : Requester) (s : State), cbWriteOf c = some (o, l, r) → l.enabled = true →
    s.phase ≠ .running → exec c s = .next { s with answer := some .retry }

/-- Every row that is a Control Block write, from a requester other than the host while watching runs: DONE, and no field takes
effect; the part stores its own value back over a field, and the bytes outside fields are stored as written. The same holds of
a host write of bytes outside every field, or of part-owned fields other than outcomes and fault codes (R146, R147). That bytes
08h to 0Fh of a Fault Record count as bytes outside every field, and are stored as written, is the model's choice (log 36; R153
drops host writes to the record's other bytes). -/
def Obligations.FieldsHeldAgainstWrites : Prop :=
  (∀ (c : Instr) (o : Nat) (l : Lanes) (r : Requester) (s : State), cbWriteOf c = some (o, l, r) → l.enabled = true →
    r ≠ 0 → s.phase = .running →
    ∃ t, exec c s = .next t ∧ t = { s with now := s.eventStamp, answer := some (.done none), mem := t.mem } ∧ s.Lands t o l) ∧
  ∀ (i : Fin 256) (l : Lanes) (s : State), s.phase = .running → l.enabled = true →
    (i.val < 0x08 ∨ (0x0C ≤ i.val ∧ i.val < 0x10) ∨ (0x14 ≤ i.val ∧ i.val < 0x20) ∨
      (0x20 ≤ i.val ∧ i.val < 0xA0 ∧ 0x08 ≤ (i.val - 0x20) % 0x20 ∧ (i.val - 0x20) % 0x20 ≠ 0x09) ∨
      (0xA0 ≤ i.val ∧ i.val < 0xC8 ∧ (i.val - 0xA0) % 8 ≠ 0) ∨ 0xC8 ≤ i.val) →
    ∃ t, exec (.controlBlockWrite i l 0) s = .next t ∧
      t = { s with now := s.eventStamp, answer := some (.done none), mem := t.mem } ∧ s.Lands t (2 * i.val) l

/-- Zeros written by the host to both bytes of an outcome word, or to its low byte, clear the outcome, and of a Fault Record's
code word empty the record; the rest of the state stays. Zeros written to the high byte alone leave another value, and are
dropped (R147, R151, R153). -/
def Obligations.ClearsEmptyOutcomeAndFault : Prop :=
  (∀ (high : Bool) (s : State), s.phase = .running →
    (∀ d : DriveNo, ∃ t, exec (.outcomeClear d true high 0) s = .next t ∧
      t = { s with
        now := s.eventStamp
        records := upd s.records d (fun m => { m with outcome := .none })
        answer := some (.done none)
        mem := t.mem } ∧
      s.Lands t (recordOffset d + 0x12) (zeroLanes true high)) ∧
    ∀ f : Fin 5, ∃ t, exec (.faultRecordClear f true high 0) s = .next t ∧
      t = { s with
        now := s.eventStamp
        faults := upd s.faults f (fun _ =>
          { code := .none, requester := none, cylinder := none, head := none, sectorId := none, count := 0 })
        answer := some (.done none)
        mem := t.mem } ∧
      s.Lands t (0x140 + f.val * 0x10) (zeroLanes true high)) ∧
  ∀ s : State, s.phase = .running →
    (∀ d : DriveNo, s.records[d].outcome ≠ .none → ∃ t, exec (.outcomeClear d false true 0) s = .next t ∧
      t = { s with now := s.eventStamp, answer := some (.done none), mem := t.mem } ∧
      s.Lands t (recordOffset d + 0x12) (zeroLanes false true)) ∧
    ∀ f : Fin 5, s.faults[f].code ≠ .none → ∃ t, exec (.faultRecordClear f false true 0) s = .next t ∧
      t = { s with now := s.eventStamp, answer := some (.done none), mem := t.mem } ∧
      s.Lands t (0x140 + f.val * 0x10) (zeroLanes false true)

/-- A host write of Settings stores the clamped values, whatever each change sets off (R149). -/
def Obligations.SettingsClampedAndTaken : Prop :=
  ∀ (l : Lanes) (s : State), s.phase = .running → l.enabled = true →
    (∃ t, exec (.settingsWrite 0 l 0) s = .next t ∧
      t.settings = { s.settings with
        writeBackDelay := match l.lo with
          | some b => if 60 < b.toNat then 60 else b
          | none => s.settings.writeBackDelay
        waiterLimit := match l.hi with
          | some b => if 100 < b.toNat then 100 else b
          | none => s.settings.waiterLimit }) ∧
    (∃ t, exec (.settingsWrite 1 l 0) s = .next t ∧
      t.settings = { s.settings with
        timeoutAction := match l.lo with
          | some b => if b = 0 then 0 else 1
          | none => s.settings.timeoutAction
        promotionInterval := match l.hi with
          | some b => if 100 < b.toNat then 100 else b
          | none => s.settings.promotionInterval }) ∧
    (∃ t, exec (.settingsWrite 2 l 0) s = .next t ∧
      t.settings = { s.settings with
        motorIdle := l.lo.getD s.settings.motorIdle
        headUnload := l.hi.getD s.settings.headUnload }) ∧
    ∃ t, exec (.settingsWrite 3 l 0) s = .next t ∧
      t = { s with
        now := s.eventStamp
        settings := { s.settings with
          settle := match l.lo with
            | some b => if b.toNat < 5 then 5 else if 60 < b.toNat then 60 else b
            | none => s.settings.settle
          yieldLimit := match l.hi with
            | some b => if 7 < b.toNat then 7 else b
            | none => s.settings.yieldLimit }
        answer := some (.done none)
        mem := t.mem } ∧
      s.Lands t 0x16 l

/-- A host write that lowers the waiter limit expires at once every wait that has lasted that long, and no other; a limit of 0
expires none (R67, R149). -/
def Obligations.LoweredWaiterLimitExpiresWaits : Prop :=
  ∀ (b : Byte) (s : State), s.phase = .running → b.toNat ≤ 100 →
    ∃ t, exec (.settingsWrite 0 { lo := none, hi := some b } 0) s = .next t ∧
      t = { s with
        now := s.eventStamp
        settings := { s.settings with waiterLimit := b }
        waiters := t.waiters
        answer := some (.done none)
        mem := t.mem } ∧
      (∀ r : Requester, t.waiters[r] = match s.waiters[r] with
        | .wait w => match w.status with
          | .hold h =>
            if w.exceeded = false ∧ 0 < b.toNat ∧ w.start.ms + b.toNat * 100 ≤ s.now.ms then .wait { w with status := .expired h }
            else .wait w
          | _ => .wait w
        | e => e) ∧
      s.Lands t 0x10 { lo := none, hi := some b }

/-- A host write of classes is taken, but a byte that would make requester 0 BARRED leaves its entry as it was (R150). -/
def Obligations.ClassTableTaken : Prop :=
  ∀ (p : Fin 4) (l : Lanes) (s : State), s.phase = .running → l.enabled = true →
    ∃ t, exec (.classTableWrite p l 0) s = .next t ∧
      t = { s with now := s.eventStamp, classes := t.classes, answer := some (.done none), mem := t.mem } ∧
      (∀ r : Requester, t.classes[r] =
        if r.val = 2 * p.val then (match l.lo with
          | some b => if r = 0 ∧ b.toNat % 4 = 0 then s.classes[r] else b
          | none => s.classes[r])
        else if r.val = 2 * p.val + 1 then l.hi.getD s.classes[r] else s.classes[r]) ∧
      s.Lands t (0x20 + 2 * p.val) l

/-- A host write of write allow, with the read retry limit in a halfword: nonzero is on, the retry limit lies in 1 to 8, and
nothing else changes (R125, R148). -/
def Obligations.WriteAllowTaken : Prop :=
  ∀ (d : DriveNo) (v : Byte) (q : Option Byte) (s : State), s.phase = .running →
    ∃ t, exec (.writeAllowWrite d v q 0) s = .next t ∧
      t = { s with
        now := s.eventStamp
        records := upd s.records d (fun m =>
          { m with host := { m.host with
              writeAllow := decide (v ≠ 0)
              volume := { m.host.volume with
                retry := match q with
                  | some b => if b.toNat = 0 then 1 else if 8 < b.toNat then 8 else b
                  | none => m.host.volume.retry } } })
        answer := some (.done none)
        mem := t.mem } ∧
      s.Lands t (recordOffset d + 0x08) { lo := q, hi := some v }

/-- Host writes of the guard fields take effect at the write while the guard lock is OPEN, with the extent code clamped to 7,
and are held while it is LOCKED. A host write of the lock while it is OPEN takes the complement written with it first, and
LOCKED then latches the guard; while it is LOCKED both bytes are held (R31, R137, R147, R148). -/
def Obligations.GuardFieldsFollowLock : Prop :=
  (∀ (d : DriveNo) (g : GuardWord) (l : Lanes) (s : State), s.phase = .running → g.covered l = true →
    ∃ t, exec (.guardFieldWrite d g l 0) s = .next t ∧
      t = { s with
        now := s.eventStamp
        records := if s.records[d].host.guardLock = true then s.records else upd s.records d (fun m =>
          { m with host := match g with
            | .extentEnd => { m.host with
                guardExtent := match l.lo with
                  | some b => Fin.ofNat 8 (min b.toNat 7)
                  | none => m.host.guardExtent
                guardHigh := match l.hi with
                  | some b => decide (b ≠ 0)
                  | none => m.host.guardHigh }
            | .complement => { m.host with
                guardComplement := match l.lo with
                  | some b => decide (b ≠ 0)
                  | none => m.host.guardComplement }
            | .exempt => { m.host with guardExempt := l.lo.getD m.host.guardExempt } })
        answer := some (.done none)
        mem := t.mem } ∧
      s.Lands t (recordOffset d + (match g with
        | .extentEnd => 0x0A
        | .complement => 0x0C
        | .exempt => 0x0E)) l) ∧
  ∀ (d : DriveNo) (v : Byte) (c : Option Byte) (s : State), s.phase = .running →
    ∃ t, exec (.guardLockWrite d v c 0) s = .next t ∧
      t = { s with
        now := s.eventStamp
        records := if s.records[d].host.guardLock = true then s.records else upd s.records d (fun m =>
          { m with host := { m.host with
              guardComplement := match c with
                | some b => decide (b ≠ 0)
                | none => m.host.guardComplement
              guardLock := decide (v ≠ 0) } })
        answer := some (.done none)
        mem := t.mem } ∧
      s.Lands t (recordOffset d + 0x0C) { lo := c, hi := some v }

/-! ### Requests -/

/-- What the volume state decides of each request, as the table of R128 has it; and what a refused request, or a FLUSH or FREEZE
of a FROZEN volume, does: the outcome is stored at the write and nothing else changes but a request class written with it; the
request field reads NONE (R127, R128). Refused are a request on a drive at or above the drive count, an unknown value, any
request while a discard is pending, and what the volume state refuses. -/
def Obligations.RequestsDecidedByVolumeState : Prop :=
  (∀ v : VolumeState,
    Request.mount.decided v = (match v with
      | .unmounted => none
      | .mounted | .frozen => some .alreadyMounted
      | .lost => some .strandedData
      | _ => some .busy) ∧
    (∀ q : Request, q = .flush ∨ q = .freeze → q.decided v = match v with
      | .unmounted | .lost => some .noVolume
      | .mounted => none
      | .frozen => some .done
      | _ => some .busy) ∧
    Request.thaw.decided v = (match v with
      | .unmounted | .lost => some .noVolume
      | .freezing | .frozen => none
      | _ => some .busy) ∧
    Request.release.decided v = (match v with
      | .unmounted | .lost => some .noVolume
      | .mounted | .frozen => none
      | _ => some .busy) ∧
    Request.reclaim.decided v = (if v = .lost then none else some .notLost) ∧
    Request.discard.decided v = (match v with
      | .unmounted => some .noVolume
      | .mounted | .frozen | .lost => none
      | _ => some .busy)) ∧
  ∀ (c : Instr) (d : DriveNo) (v : Byte) (cls : Option Byte) (out : ReqOutcome) (s : State), s.phase = .running →
    ((∃ q : Request, c = q.command d cls 0 ∧ v = q.byte ∧
        ((s.straps.drives ≤ d.val ∧ out = .driveAbsent) ∨
          (d.val < s.straps.drives ∧ s.records[d].pendingDiscard = true ∧ out = .busy) ∨
          (d.val < s.straps.drives ∧ s.records[d].pendingDiscard = false ∧ q.decided (s.volume d) = some out))) ∨
      (c = .unknownRequest d v cls 0 ∧ 8 ≤ v.toNat ∧
        ((s.straps.drives ≤ d.val ∧ out = .driveAbsent) ∨ (d.val < s.straps.drives ∧ out = .unknownRequest)))) →
    ∃ t, exec c s = .next t ∧
      t = { s with
        now := s.eventStamp
        records := upd s.records d (fun m =>
          { m with outcome := out, host := { m.host with requestClass := cls.getD m.host.requestClass } })
        answer := some (.done none)
        mem := t.mem } ∧
      s.Lands t (recordOffset d) { lo := some v, hi := cls }

/-- A MOUNT taken on an UNMOUNTED volume whose drive is stopped without an operation: MOUNTING, the seven fields latched, and a
PROBE queued, chosen and starting the motor, at the request class, BARRED taken as BACKGROUND (R81, R125, R127, R129). That a
choice with the head position unknown leaves the sweep inward, and that the request in progress keeps the class of its take, are
the model's choices (logs 33 and 35). -/
def Obligations.MountTaken : Prop :=
  ∀ (d : DriveNo) (s : State), s.Steady → d.val < s.straps.drives → s.volume d = .unmounted →
    s.records[d].pendingDiscard = false → s.drives[d].queue = [] → s.drives[d].media = .stopped →
    ∃ t, exec (.mount d none 0) s = .next t ∧
      t = { s with
        now := s.eventStamp
        records := upd s.records d (fun m =>
          { m with
            state := .mounting
            latched := m.host.volume
            progress := some { kind := .mount, cls := requestClassOf m.host.requestClass, phase2 := false } })
        drives := upd s.drives d (fun v => v.startedFor
          { work := .probe, reason := none, cylinder := 0, head := 0, cls := requestClassOf s.records[d].host.requestClass,
            enqueued := s.eventStamp, promoted := s.eventStamp, phase := .seeking } s.eventStamp)
        answer := some (.done none)
        mem := t.mem } ∧
      s.Lands t (recordOffset d) { lo := some 1, hi := none }

/-- What completes at the write itself: a FLUSH of a MOUNTED volume whose dirty count is 0, which stays MOUNTED; a FREEZE of
one, which becomes FROZEN; a THAW of a FREEZING or FROZEN volume, which becomes MOUNTED with its drive's operations as they
are. Each stores the outcome DONE (R131, R132, R144, R145). -/
def Obligations.CleanFlushFreezeAndThawDone : Prop :=
  (∀ (d : DriveNo) (cls : Option Byte) (s : State), s.phase = .running → d.val < s.straps.drives → s.volume d = .mounted →
    s.records[d].pendingDiscard = false → s.dirtyCount d = 0 →
    ∃ t, exec (.flush d cls 0) s = .next t ∧
      t = { s with
        now := s.eventStamp
        records := upd s.records d (fun m =>
          { m with outcome := .done, host := { m.host with requestClass := cls.getD m.host.requestClass } })
        answer := some (.done none)
        mem := t.mem } ∧
      s.Lands t (recordOffset d) { lo := some 2, hi := cls }) ∧
  (∀ (d : DriveNo) (cls : Option Byte) (s : State), s.Steady → d.val < s.straps.drives → s.volume d = .mounted →
    s.records[d].pendingDiscard = false → s.dirtyCount d = 0 →
    ∃ t, exec (.freeze d cls 0) s = .next t ∧
      t = { s with
        now := s.eventStamp
        records := upd s.records d (fun m =>
          { m with
            state := .frozen
            outcome := .done
            progress := none
            flushSet := []
            flushFailed := false
            host := { m.host with requestClass := cls.getD m.host.requestClass } })
        answer := some (.done none)
        mem := t.mem } ∧
      s.Lands t (recordOffset d) { lo := some 3, hi := cls }) ∧
  ∀ (d : DriveNo) (cls : Option Byte) (s : State), s.phase = .running → d.val < s.straps.drives →
    (s.volume d = .freezing ∨ s.volume d = .frozen) → s.records[d].pendingDiscard = false →
    ∃ t, exec (.thaw d cls 0) s = .next t ∧
      t = { s with
        now := s.eventStamp
        records := upd s.records d (fun m =>
          { m with
            state := .mounted
            outcome := .done
            progress := none
            flushSet := []
            flushFailed := false
            host := { m.host with requestClass := cls.getD m.host.requestClass } })
        answer := some (.done none)
        mem := t.mem } ∧
      s.Lands t (recordOffset d) { lo := some 4, hi := cls }

/-- A FLUSH of a MOUNTED volume with one dirty slot, of a drive stopped without an operation: FLUSHING with that slot as its
flush set, its write-failed flag cleared, and its WRITE queued, chosen and starting the motor (R131, R141, R143, R144). That a
choice with the head position unknown leaves the sweep inward, and that the request in progress keeps the class of its take, are
the model's choices (logs 33 and 35). -/
def Obligations.FlushWritesDirtySlot : Prop :=
  ∀ (d : DriveNo) (k : Nat) (key : Key) (s : State), s.Steady → d.val < s.straps.drives → s.volume d = .mounted →
    s.records[d].pendingDiscard = false → s.unwrittenSlots d = [k] → k < s.slots.length → (s.slot k).key = some key →
    key.drive = d → (s.slot k).state = .resident → s.drives[d].queue = [] → s.drives[d].media = .stopped →
    ∃ t, exec (.flush d none 0) s = .next t ∧
      t = { s with
        now := s.eventStamp
        records := upd s.records d (fun m =>
          { m with
            state := .flushing
            progress := some { kind := .flush, cls := requestClassOf m.host.requestClass, phase2 := false }
            flushSet := [{ slot := k, underWay := false }]
            flushFailed := false })
        slots := s.slots.modify k (fun x => { x with writeFailed := false })
        drives := upd s.drives d (fun v => v.startedFor
          { work := .write k (s.slot k).generation false, reason := some .flush, cylinder := key.cylinder, head := key.head,
            cls := requestClassOf s.records[d].host.requestClass, enqueued := s.eventStamp, promoted := s.eventStamp,
            phase := .seeking } s.eventStamp)
        answer := some (.done none)
        mem := t.mem } ∧
      s.Lands t (recordOffset d) { lo := some 2, hi := none }

/-- A RELEASE of a volume without dirty slots and of a drive without an operation completes at the write; a DISCARD of any
volume it may be asked of is carried out at the write where the drive has no operation. Either way every slot of the drive
becomes FREE and joins the free list at its tail in ascending number, the volume becomes UNMOUNTED with outcome DONE and its
guard lock OPEN; the DISCARD fails the drive's waits with NO_VOLUME (R35, R46, R58, R72, R126, R133, R135). No requester waits
for a slot there, or no slot of the drive is freed. Where slots are freed and one requester waits for a slot, for a track of
another drive whose volume admits its fill, the freeing is a release event: the first slot freed is assigned to the waiter's key,
its FILL is queued at the waiter's class, on a drive with its motor stopped chosen and starting the motor, and the waiter becomes
ON_FILL (R44, R48). That the slots freed together make one release event, and that a choice with the head position unknown leaves
the sweep inward, are the model's choices (logs 40 and 33). -/
def Obligations.ReleaseAndDiscardEmptyDrive : Prop :=
  (∀ (d : DriveNo) (q : Request) (s : State), s.Steady → d.val < s.straps.drives → s.records[d].pendingDiscard = false →
    s.drives[d].queue = [] → (s.NoSlotWaits ∨ s.slotsOf d = []) →
    ((q = .release ∧ (s.volume d = .mounted ∨ s.volume d = .frozen) ∧ s.dirtyCount d = 0) ∨
      (q = .discard ∧ (s.volume d = .mounted ∨ s.volume d = .frozen ∨ s.volume d = .lost) ∧ s.writingField d = false)) →
    ∃ t, exec (q.command d none 0) s = .next t ∧
      t = { s with
        now := s.eventStamp
        records := upd s.records d (fun m =>
          { m with
            state := .unmounted
            outcome := .done
            progress := none
            flushSet := []
            flushFailed := false
            pendingDiscard := false
            host := { m.host with guardLock := false } })
        geometry := upd s.geometry d (fun _ => none)
        slots := t.slots
        recency := (s.slotsOf d).foldl (fun r k => r.erase k) s.recency
        freeList := s.freeList ++ s.slotsOf d
        waiters := if q = .discard then updAll s.waiters (fun e => e.failDrive d .noVolume) else s.waiters
        answer := some (.done none)
        mem := t.mem } ∧
      (∀ k, k < s.slots.length → t.slot k =
        if (s.slot k).onDrive d = true then
          { state := .free, key := none, generation := (s.slot k).generation, sectors := [], dirtySince := none,
            writeFailed := false, yields := 0, active := none, pendingWrite := none }
        else s.slot k) ∧
      t.slots.length = s.slots.length ∧
      s.Lands t (recordOffset d) { lo := some q.byte, hi := none }) ∧
  ∀ (d : DriveNo) (q : Request) (s : State) (r0 : Requester) (w : Waiter) (k : Nat) (ks : List Nat) (g : Geometry), s.Steady →
    d.val < s.straps.drives → s.records[d].pendingDiscard = false → s.drives[d].queue = [] →
    ((q = .release ∧ (s.volume d = .mounted ∨ s.volume d = .frozen) ∧ s.dirtyCount d = 0) ∨
      (q = .discard ∧ (s.volume d = .mounted ∨ s.volume d = .frozen ∨ s.volume d = .lost) ∧ s.writingField d = false)) →
    s.waiters[r0] = .wait w → w.status = .hold .slotWait → (∀ r : Requester, r ≠ r0 → s.slotWait r = none) →
    w.key.drive ≠ d → (s.volume w.key.drive = .mounted ∨ s.volume w.key.drive = .flushing) →
    s.geometry[w.key.drive] = some g → s.lookup w.key = none → s.freeList = [] → s.slotsOf d = k :: ks →
    s.drives[w.key.drive].queue = [] → s.drives[w.key.drive].media = .stopped →
    ∃ t, exec (q.command d none 0) s = .next t ∧
      t = { s with
        now := s.eventStamp
        records := upd s.records d (fun m =>
          { m with
            state := .unmounted
            outcome := .done
            progress := none
            flushSet := []
            flushFailed := false
            pendingDiscard := false
            host := { m.host with guardLock := false } })
        geometry := upd s.geometry d (fun _ => none)
        slots := t.slots
        recency := k :: ((k :: ks).foldl (fun r j => r.erase j) s.recency).erase k
        freeList := ks
        waiters := updAll s.waiters (fun e =>
          if e = .wait w then .wait { w with status := .hold .onFill }
          else if q = .discard then e.failDrive d .noVolume else e)
        drives := upd s.drives w.key.drive (fun v => v.startedFor
          { work := .fill k s.records[w.key.drive].generation, reason := none, cylinder := w.key.cylinder, head := w.key.head,
            cls := w.cls, enqueued := s.eventStamp, promoted := s.eventStamp, phase := .seeking } s.eventStamp)
        answer := some (.done none)
        mem := t.mem } ∧
      (∀ j, j < s.slots.length → t.slot j =
        if j = k then
          { state := .filling, key := some w.key, generation := s.records[w.key.drive].generation,
            sectors := List.replicate (sectorsPerTrack g.size) { state := .absent, report := false },
            dirtySince := none, writeFailed := false, yields := 0, active := none, pendingWrite := none }
        else if (s.slot j).onDrive d = true then
          { state := .free, key := none, generation := (s.slot j).generation, sectors := [], dirtySince := none,
            writeFailed := false, yields := 0, active := none, pendingWrite := none }
        else s.slot j) ∧
      t.slots.length = s.slots.length ∧
      s.Lands t (recordOffset d) { lo := some q.byte, hi := none }

/-- A DISCARD while a sector of the drive is being written waits for its end: it is pending, and nothing else changes but the
request field (R135). -/
def Obligations.DiscardWaitsForSector : Prop :=
  ∀ (d : DriveNo) (s : State), s.phase = .running → d.val < s.straps.drives → s.records[d].pendingDiscard = false →
    (s.volume d = .mounted ∨ s.volume d = .frozen ∨ s.volume d = .lost) → s.writingField d = true →
    ∃ t, exec (.discard d none 0) s = .next t ∧
      t = { s with
        now := s.eventStamp
        records := upd s.records d (fun m => { m with pendingDiscard := true })
        answer := some (.done none)
        mem := t.mem } ∧
      s.Lands t (recordOffset d) { lo := some 7, hi := none }

/-- A RECLAIM of a LOST volume: refused with STAMP_UNKNOWN without a stamp, with NOT_READY without a diskette; otherwise
RECLAIMING with a PROBE queued, chosen and, on a drive with its motor stopped, starting the motor (R134). That a choice with the
head position unknown leaves the sweep inward, and that the request in progress keeps the class of its take, are the model's
choices (logs 33 and 35). -/
def Obligations.ReclaimProbesStamp : Prop :=
  ∀ (d : DriveNo) (s : State), s.phase = .running → d.val < s.straps.drives → s.records[d].pendingDiscard = false →
    s.volume d = .lost →
    ((s.records[d].stamp = none ∨ s.drives[d].media = .noMedia) →
      ∃ t, exec (.reclaim d none 0) s = .next t ∧
        t = { s with
          now := s.eventStamp
          records := upd s.records d (fun m =>
            { m with outcome := if m.stamp = none then .stampUnknown else .notReady })
          answer := some (.done none)
          mem := t.mem } ∧
        s.Lands t (recordOffset d) { lo := some 6, hi := none }) ∧
    (s.Steady → s.records[d].stamp ≠ none → s.drives[d].media = .stopped → s.drives[d].queue = [] →
      ∃ t, exec (.reclaim d none 0) s = .next t ∧
        t = { s with
          now := s.eventStamp
          records := upd s.records d (fun m =>
            { m with
              state := .reclaiming
              progress := some { kind := .reclaim, cls := requestClassOf m.host.requestClass, phase2 := false } })
          drives := upd s.drives d (fun v => v.startedFor
            { work := .probe, reason := none, cylinder := 0, head := 0, cls := requestClassOf s.records[d].host.requestClass,
              enqueued := s.eventStamp, promoted := s.eventStamp, phase := .seeking } s.eventStamp)
          answer := some (.done none)
          mem := t.mem } ∧
        s.Lands t (recordOffset d) { lo := some 6, hi := none })

/-! ### Doors, motors and timers -/

/-- A door open on an UNMOUNTED volume's drive, at rest: NO_MEDIA, the notch unprotected, the timers and the index watch
stopped, nothing else (R107, R120). A door close in NO_MEDIA: STOPPED, the notch latched from WPROT, the head position unknown,
the sweep inward (R80, R113). The doors of a drive at or above the drive count are not sensed (R111). The levels of the sense
lines come with the command (log 2). -/
def Obligations.DoorMovesMedia : Prop :=
  ∀ (d : DriveNo) (pins : Pins) (s : State),
    (d.val < s.straps.drives → s.volume d = .unmounted → s.Steady → s.drives[d].queue = [] →
      ∃ t, exec (.doorOpen d pins) s = .next t ∧
        t = { s with
          now := s.eventStamp
          pins := pins
          doors := s.doors &&& ~~~(1#4 <<< d.val)
          drives := upd s.drives d (fun v =>
            { v with
              media := .noMedia
              notch := false
              spinUp := none
              headUnload := none
              motorIdle := none
              watch := none
              step := none
              move := .idle
              moved := false })
          mem := t.mem } ∧
        s.Stores t) ∧
    (d.val < s.straps.drives → s.drives[d].media = .noMedia → s.phase = .running →
      ∃ t, exec (.doorClose d pins) s = .next t ∧
        t = { s with
          now := s.eventStamp
          pins := pins
          doors := s.doors ||| (1#4 <<< d.val)
          drives := upd s.drives d (fun v =>
            { v with media := .stopped, notch := pins.wprot.getLsbD d.val, head := none, inward := true })
          mem := t.mem } ∧
        s.Stores t) ∧
    (s.straps.drives ≤ d.val → exec (.doorOpen d pins) s = .next s ∧ exec (.doorClose d pins) s = .next s)

/-- A door open on any other volume is a media removal: the slots of the drive that hold a DIRTY sector become STRANDED, the
others FREE; the volume becomes LOST if a slot is stranded and UNMOUNTED if none is, with outcome MEDIA_REMOVED; its waits fail
with VOLUME_LOST (R57, R72, R120, R121, R138). A slot whose sectors are VALID, DIRTY or DAMAGED is stranded with its sector table,
key, generation and write-failed flag, a slot already STRANDED stays as it is, and no byte of the pool changes where every slot
stranded is so; the slots freed leave the recency order and join the free list at its tail in ascending number (R46, R47, R57). The
drive has no operation here; no requester waits for a slot, or no slot is freed. -/
def Obligations.DoorOpenStrandsDirtySlots : Prop :=
  ∀ (d : DriveNo) (pins : Pins) (s : State), d.val < s.straps.drives → s.volume d ≠ .unmounted → s.Steady →
    s.drives[d].queue = [] → (s.NoSlotWaits ∨ ∀ k, k < s.slots.length → (s.slot k).onDrive d = true → (s.slot k).state = .resident →
      (s.slot k).dirty = true) →
    (∀ k, k < s.slots.length → (s.slot k).onDrive d = true → (s.slot k).state = .resident ∨ (s.slot k).state = .stranded) →
    ∃ t, exec (.doorOpen d pins) s = .next t ∧
      t.drives[d].media = .noMedia ∧ t.drives[d].notch = false ∧
      t.volume d = (if ∃ k, k < s.slots.length ∧ (s.slot k).onDrive d = true ∧
          ((s.slot k).dirty = true ∨ (s.slot k).state = .stranded) then .lost else .unmounted) ∧
      (t.volume d = .unmounted → t.geometry[d] = none ∧ t.records[d].host.guardLock = false) ∧
      (t.volume d = .lost → t.geometry[d] = s.geometry[d]) ∧
      t.records[d].outcome = .mediaRemoved ∧ t.records[d].pendingDiscard = false ∧ t.records[d].progress = none ∧
      (∀ k, k < s.slots.length →
        ((s.slot k).onDrive d = true → (s.slot k).state = .resident → (s.slot k).dirty = true →
          (t.slot k).state = .stranded ∧ (t.slot k).key = (s.slot k).key ∧ (t.slot k).dirtySince = none) ∧
        ((s.slot k).onDrive d = true → (s.slot k).state = .resident → (s.slot k).dirty = false →
          (t.slot k).state = .free ∧ (t.slot k).key = none) ∧
        ((s.slot k).onDrive d = true → (s.slot k).state = .resident → (s.slot k).dirty = true →
          (∀ e ∈ (s.slot k).sectors, e.state = .valid ∨ e.state = .dirty ∨ e.state = .damaged) →
          t.slot k = { s.slot k with state := .stranded, dirtySince := none, yields := 0, active := none, pendingWrite := none }) ∧
        ((s.slot k).state = .stranded → t.slot k = s.slot k) ∧
        ((s.slot k).onDrive d = false → t.slot k = s.slot k)) ∧
      (∀ e : DriveNo, e ≠ d → t.drives[e] = s.drives[e] ∧ t.records[e] = s.records[e]) ∧
      t.waiters = updAll s.waiters (fun e => e.failDrive d .volumeLost) ∧
      t.freeList = s.freeList ++ s.slotsWhere (fun _ x => x.onDrive d && decide (x.state = .resident) && !x.dirty) ∧
      t.recency = (s.slotsWhere (fun _ x => x.onDrive d && decide (x.state = .resident) && !x.dirty)).foldl
        (fun r k => r.erase k) s.recency ∧
      t.faults = s.faults ∧ t.settings = s.settings ∧ t.classes = s.classes ∧
      (∀ a, a < s.straps.poolBase → ¬ s.inControlBlock a → Memory.read t.mem a = Memory.read s.mem a) ∧
      ((∀ k, k < s.slots.length → (s.slot k).onDrive d = true → (s.slot k).state = .resident → (s.slot k).dirty = true →
          ∀ e ∈ (s.slot k).sectors, e.state ≠ .absent) →
        ∀ a, ¬ s.inControlBlock a → Memory.read t.mem a = Memory.read s.mem a)

/-- A spin-up ends. READY true without a current operation: RUNNING, the motor-idle timer starts. READY false without one:
STOPPED. READY true with a waiting seek whose head rests on its target: RUNNING, the head is loaded, the settle begins with the
settle time in force, and the index watch starts (R82, R107, R114, R116). -/
def Obligations.SpinUpEnds : Prop :=
  ∀ (d : DriveNo) (pins : Pins) (t0 : Nat) (s : State), s.Steady → s.drives[d].spinUp = some t0 →
    s.drives[d].media = .starting →
    (s.drives[d].currentOp = none →
      ∃ t, exec (.spinUpExpiry d pins) s = .next t ∧
        t = { s with
          now := s.eventStampAt (t0 + s.straps.spinUpMs)
          pins := pins
          drives := upd s.drives d (fun v =>
            { v with
              media := if pins.ready.getLsbD d.val = true then .running else .stopped
              spinUp := none
              motorIdle := if pins.ready.getLsbD d.val = true then some (s.eventStampAt (t0 + s.straps.spinUpMs)).ms
                else v.motorIdle })
          mem := t.mem } ∧
        s.Stores t) ∧
    ∀ o : Op, s.drives[d].currentOp = some o → o.phase = .seeking → s.drives[d].move = .spinUp → s.drives[d].step = none →
      s.drives[d].head = some o.cylinder → pins.ready.getLsbD d.val = true →
      ∃ t, exec (.spinUpExpiry d pins) s = .next t ∧
        t = { s with
          now := s.eventStampAt (t0 + s.straps.spinUpMs)
          pins := pins
          drives := upd s.drives d (fun v =>
            { v with
              media := .loaded
              spinUp := none
              motorIdle := none
              moved := true
              move := .settling ((s.eventStampAt (t0 + s.straps.spinUpMs)).ms + s.settings.settle.toNat)
              watch := some (s.eventStampAt (t0 + s.straps.spinUpMs)).ms })
          mem := t.mem } ∧
        s.Stores t

/-- The two idle timers in series: the head-unload expiry unloads the head and starts the motor-idle timer (R116); the
motor-idle expiry stops the motor, but never with a motor-idle time of 0 (R117). The clock is brought to the time due
(log 4). -/
def Obligations.IdleTimersStopDrive : Prop :=
  ∀ (d : DriveNo) (t0 : Nat) (s : State), s.drives[d].current = false →
    (s.drives[d].media = .loaded → s.drives[d].headUnload = some t0 →
      ∃ t, exec (.headUnloadExpiry d) s = .next t ∧
        t = { s with
          now := s.eventStampAt (t0 + s.settings.headUnload.toNat * 10)
          drives := upd s.drives d (fun v =>
            { v with
              media := .running
              headUnload := none
              motorIdle := some (s.eventStampAt (t0 + s.settings.headUnload.toNat * 10)).ms })
          mem := t.mem } ∧
        s.Stores t) ∧
    (s.drives[d].media = .running → s.drives[d].motorIdle = some t0 →
      (s.settings.motorIdle = 0 → exec (.motorIdleExpiry d) s = .next s) ∧
      (s.settings.motorIdle ≠ 0 → ∃ t, exec (.motorIdleExpiry d) s = .next t ∧
        t = { s with
          now := s.eventStampAt (t0 + s.settings.motorIdle.toNat * 1000)
          drives := upd s.drives d (fun v => { v with media := .stopped, motorIdle := none })
          mem := t.mem } ∧
        s.Stores t))

/-- A wait that reaches the waiter limit becomes EXPIRED with the status it was held as, and the cycle is not answered (R67).
An operation that has waited a promotion interval rises by one class and its clock begins again (R79). -/
def Obligations.WaitsExpireAndOperationsRise : Prop :=
  (∀ (r : Requester) (w : Waiter) (h : Hold) (s : State), s.waiters[r] = .wait w → w.status = .hold h →
    w.exceeded = false → s.settings.waiterLimit ≠ 0 →
    ∃ t, exec (.waiterExpiry r) s = .next t ∧
      t = { s with
        now := s.eventStampAt (w.start.ms + s.settings.waiterLimit.toNat * 100)
        waiters := upd s.waiters r (fun _ => .wait { w with status := .expired h })
        mem := t.mem } ∧
      s.Stores t) ∧
  ∀ (d : DriveNo) (slot : Option Nat) (o : Op) (s : State), s.drives[d].opOf slot = some o →
    (o.phase = .queued ∨ ∃ at_, o.phase = .positioned at_) → o.cls ≠ .urgent → s.settings.promotionInterval ≠ 0 →
    ∃ t, exec (.promotion d slot) s = .next t ∧
      t = { s with
        now := s.eventStampAt (o.promoted.ms + s.settings.promotionInterval.toNat * 100)
        drives := upd s.drives d (fun v =>
          { v with
            queue := v.queue.map (fun x =>
              if x.work.slot? = slot then
                { x with
                  cls := if x.cls = .background then .normal else .urgent
                  promoted := s.eventStampAt (o.promoted.ms + s.settings.promotionInterval.toNat * 100) }
              else x) })
        mem := t.mem } ∧
      s.Stores t

/-- The write-back delay of a dirty slot without an operation runs out: a WRITE with class BACKGROUND is asked for, and, on a
drive stopped without an operation, chosen and starting the motor (R76, R81, R140). That a choice with the head position unknown
leaves the sweep inward is the model's choice (log 33). -/
def Obligations.AgedSlotIsWritten : Prop :=
  ∀ (k : Nat) (key : Key) (since : Nat) (s : State), s.Steady → (s.slot k).state = .resident → (s.slot k).key = some key →
    (s.slot k).dirtySince = some since → (s.slot k).writeFailed = false → s.drives[key.drive].queue = [] →
    s.drives[key.drive].media = .stopped →
    ∃ t, exec (.ageWriteBack k) s = .next t ∧
      t = { s with
        now := s.eventStampAt (since + s.settings.writeBackDelay.toNat * 1000)
        drives := upd s.drives key.drive (fun v => v.startedFor
          { work := .write k (s.slot k).generation false, reason := some .age, cylinder := key.cylinder, head := key.head,
            cls := .background, enqueued := s.eventStamp, promoted := s.eventStamp, phase := .seeking }
          (s.eventStampAt (since + s.settings.writeBackDelay.toNat * 1000)))
        mem := t.mem } ∧
      s.Stores t

/-! ### Seeks, index pulses and passes -/

/-- A seek advances. A step that ends short of the target is followed by the next one toward it, at the step rate latched at
the MOUNT; a step that ends on the target of a loaded head begins the settle (R82, R93). A step of a recalibration that ends
with TRACK0 false is followed by another, up to 80 (R94). A settle that ends while another drive holds the channel leaves the
operation POSITIONED with the side selected (R82, R84). -/
def Obligations.SeekAdvances : Prop :=
  ∀ (d : DriveNo) (pins : Pins) (o : Op) (s : State), s.Steady → s.drives[d].currentOp = some o → o.phase = .seeking →
    (∀ (u : StepUnderWay) (h h' : Nat), s.drives[d].step = some u → s.drives[d].move = .stepping →
      s.drives[d].head = some h → h' = (if u.inward = true then min (h + 1) 76 else h - 1) →
      (h' ≠ o.cylinder → ∃ t, exec (.stepComplete d pins) s = .next t ∧
        t = { s with
          now := s.eventStampAt u.due
          pins := pins
          drives := upd s.drives d (fun v =>
            { v with
              head := some h'
              moved := true
              step := some { inward := decide (h' < o.cylinder), due := (s.eventStampAt u.due).ms + s.stepRate d } })
          mem := t.mem } ∧
        s.Stores t) ∧
      (h' = o.cylinder → s.drives[d].moved = true → s.drives[d].media = .loaded →
        ∃ t, exec (.stepComplete d pins) s = .next t ∧
          t = { s with
            now := s.eventStampAt u.due
            pins := pins
            drives := upd s.drives d (fun v =>
              { v with
                head := some h'
                step := none
                move := .settling ((s.eventStampAt u.due).ms + s.settings.settle.toNat) })
            mem := t.mem } ∧
          s.Stores t)) ∧
    (∀ (u : StepUnderWay) (n : Nat), s.drives[d].step = some u → s.drives[d].move = .recalibrating n → n < 80 →
      pins.track0.getLsbD d.val = false → s.drives[d].head = none → ∃ t, exec (.stepComplete d pins) s = .next t ∧
        t = { s with
          now := s.eventStampAt u.due
          pins := pins
          drives := upd s.drives d (fun v =>
            { v with
              moved := true
              move := .recalibrating (n + 1)
              step := some { inward := false, due := (s.eventStampAt u.due).ms + s.stepRate d } })
          mem := t.mem } ∧
        s.Stores t) ∧
    ∀ due : Nat, s.drives[d].move = .settling due → s.channelHeld = true → (∀ p, s.pass = some p → p.drive ≠ d) →
      ∃ t, exec (.settleEnd d pins) s = .next t ∧
        t = { s with
          now := s.eventStampAt due
          pins := pins
          drives := upd s.drives d (fun v =>
            { v with
              side := o.head
              move := .idle
              moved := false
              queue := v.queue.map (fun x =>
                if x.phase = .seeking then
                  { x with phase := .positioned (s.eventStampAt due), promoted := s.eventStampAt due }
                else x) })
          mem := t.mem } ∧
        s.Stores t

/-- An index pulse restarts the index watch of its drive, and counts in that drive's pass below its limit (R96, R98, R107). -/
def Obligations.IndexPulseRestartsWatch : Prop :=
  ∀ (d : DriveNo) (pins : Pins) (s : State), s.Steady → d.val < s.straps.drives →
    (∀ p, s.pass = some p → p.drive = d → p.recovering = false ∧ (∃ seen, p.round = .reading seen) ∧ p.pulses < p.retry) →
    ∃ t, exec (.indexPulse d pins) s = .next t ∧
      t = { s with
        now := s.eventStamp
        pins := pins
        drives := upd s.drives d (fun v => { v with watch := v.watch.map (fun _ => s.now.ms) })
        pass := s.pass.map (fun p => if p.drive = d then { p with pulses := p.pulses + 1 } else p)
        mem := t.mem } ∧
      s.Stores t

/-- The index watch expires in the seek of a MOUNT's PROBE: it fails with NO_INDEX, the drive's motor stops, the drive fault is
reported with the target and without a requester, and the volume becomes UNMOUNTED with the outcome NO_INDEX (R83, R107, R109,
R118, R126, R130). In the seek of a FILL whose slot holds no DIRTY sector: the FILL fails alike, the slot becomes FREE and joins the
free list at its tail, and the requesters held ON_FILL on its key, or expired so held, have their waits failed with NO_INDEX
(R46, R51, R71). No requester waits for a slot there. -/
def Obligations.IndexWatchFailsMount : Prop :=
  (∀ (d : DriveNo) (pins : Pins) (o : Op) (t0 : Nat) (s : State), s.Steady → s.drives[d].watch = some t0 →
    s.drives[d].queue = [o] → o.work = .probe → o.phase = .seeking → s.volume d = .mounting →
    ∃ t, exec (.indexWatchExpiry d pins) s = .next t ∧
      t = { s with
        now := s.eventStampAt (t0 + 500)
        pins := pins
        faults := upd s.faults (Fin.castSucc d) (fun f =>
          f.take { code := .noIndex, requester := none, cylinder := some o.cylinder, head := some o.head, sectorId := none })
        records := upd s.records d (fun m =>
          { m with
            state := .unmounted
            outcome := .noIndex
            progress := none
            flushSet := []
            flushFailed := false
            pendingDiscard := false
            host := { m.host with guardLock := false } })
        geometry := upd s.geometry d (fun _ => none)
        drives := upd s.drives d (fun v =>
          { v with
            queue := []
            media := .stopped
            spinUp := none
            headUnload := none
            motorIdle := none
            move := .idle
            moved := false
            watch := none
            current := false })
        mem := t.mem } ∧
      s.Stores t) ∧
  ∀ (d : DriveNo) (pins : Pins) (o : Op) (k : Nat) (gen : Byte) (key : Key) (t0 : Nat) (s : State), s.Steady →
    s.drives[d].watch = some t0 → s.drives[d].queue = [o] → o.work = .fill k gen → o.phase = .seeking →
    key = { drive := d, cylinder := o.cylinder, head := o.head } → k < s.slots.length → (s.slot k).state = .filling →
    (s.slot k).key = some key → (s.slot k).dirty = false → s.NoSlotWaits →
    ∃ t, exec (.indexWatchExpiry d pins) s = .next t ∧
      t = { s with
        now := s.eventStampAt (t0 + 500)
        pins := pins
        faults := upd s.faults (Fin.castSucc d) (fun f =>
          f.take { code := .noIndex, requester := none, cylinder := some o.cylinder, head := some o.head, sectorId := none })
        slots := s.slots.modify k (fun x =>
          { state := .free, key := none, generation := x.generation, sectors := [], dirtySince := none, writeFailed := false,
            yields := 0, active := none, pendingWrite := none })
        recency := s.recency.erase k
        freeList := s.freeList ++ [k]
        waiters := updAll s.waiters (fun e => match e with
          | .wait w =>
            if w.key = key ∧ (w.status = .hold .onFill ∨ w.status = .expired .onFill)
            then .wait { w with status := .failed (.drive .noIndex) } else .wait w
          | e => e)
        drives := upd s.drives d (fun v =>
          { v with
            queue := []
            media := .stopped
            spinUp := none
            headUnload := none
            motorIdle := none
            move := .idle
            moved := false
            watch := none
            current := false })
        mem := t.mem } ∧
      s.Stores t

/-- An ID field during a pass that reads in its encoding. A field whose CRC is bad, or of another head, leaves the pass as it
is. A good field of the target cylinder, head and size code whose ID the list holds is matching: a FILL waits for the data
field of an ABSENT sector, and a WRITE writes the OUTBOUND sector of its write list from the slot's bytes, with a data address
mark and the computed CRC. A good field of another cylinder begins a recovery, which steps outward while TRACK0 reads false
(R22, R53, R90, R91, R94 to R97, R100). -/
def Obligations.IdFieldClassified : Prop :=
  ∀ (f : IdField) (pins : Pins) (p : Pass) (k : Nat) (key : Key) (gen : Byte) (ids : List Nat) (size : Fin 4) (verify : Bool)
    (s : State), s.Steady → s.pass = some p → p.target = .track k key gen ids size verify → p.recovering = false →
    (s.slot k).active = none → p.awaited = none → f.mfm = decide (size ≠ 0) →
    ((IdField.good f = false ∨ (f.cylinder.toNat = p.cylinder ∧ f.head.toNat ≠ p.head)) →
      ∃ t, exec (.idFieldRead f pins) s = .next t ∧ t = { s with now := s.eventStamp, pins := pins, mem := t.mem } ∧
        s.Stores t) ∧
    (∀ q : Nat, IdField.good f = true → f.cylinder.toNat = p.cylinder → f.head.toNat = p.head →
      f.sizeCode.toNat = size.val → positionOf ids f.sectorId.toNat = some q → k < s.slots.length →
      (s.slot k).key = some key → (s.slot k).generation = gen →
      (∀ seen, p.round = .reading seen → (s.slot k).state = .filling → ((s.slot k).sector q).state = .absent →
        ∃ t, exec (.idFieldRead f pins) s = .next t ∧
          t = { s with now := s.eventStamp, pins := pins, pass := some { p with awaited := some q }, mem := t.mem } ∧
          s.Stores t) ∧
      (∀ todo written, p.round = .writing todo written → q ∈ todo → (s.slot k).state = .writing →
        ((s.slot k).sector q).state = .outbound →
        ∃ t, exec (.idFieldRead f pins) s = .next t ∧
          t = { s with
            now := s.eventStamp
            pins := pins
            slots := s.slots.modify k (fun x => { x with active := some q })
            fieldOut := some {
              drive := p.drive
              cylinder := p.cylinder
              head := p.head
              sectorId := f.sectorId.toNat
              field := DataField.ofBytes size ((List.range (sectorSize size)).map (fun i =>
                Memory.read s.mem (s.straps.poolBase + k * 8192 + q * sectorSize size + i))) }
            mem := t.mem } ∧
          s.Stores t)) ∧
    (IdField.good f = true → f.cylinder.toNat ≠ p.cylinder → p.recals < 2 → pins.track0.getLsbD p.drive.val = false →
      ∃ t, exec (.idFieldRead f pins) s = .next t ∧
        t = { s with
          now := s.eventStamp
          pins := pins
          pass := some { p with recals := p.recals + 1, recovering := true, awaited := none }
          drives := upd s.drives p.drive (fun v =>
            { v with
              moved := true
              move := .recalibrating 1
              step := some { inward := false, due := s.now.ms + s.stepRate p.drive } })
          mem := t.mem } ∧
        s.Stores t)

/-- The data field of an awaited ABSENT sector during a FILL that has another sector still ABSENT: its bytes go into the slot,
the sector becomes VALID where the CRC is good and stays ABSENT where it is bad, and it is marked seen (R49, R97). The good data
field of the only ABSENT sector ends the fill: the slot is RESIDENT, its dirty-since time begins where it holds a DIRTY sector, the
FILL has ended and the channel is free; its drive, with no other operation, starts its head-unload timer (R50, R86, R98, R116,
R139). No pending write waits there, the write-back delay is above 0, and no other drive waits for the channel. -/
def Obligations.FillSectorArrives : Prop :=
  (∀ (f : DataField) (pins : Pins) (p : Pass) (k : Nat) (key : Key) (gen : Byte) (ids : List Nat) (size : Fin 4) (verify : Bool)
    (seen : List Nat) (q q' : Nat) (s : State), s.Steady → s.pass = some p → p.target = .track k key gen ids size verify →
    p.recovering = false → (s.slot k).active = none → p.round = .reading seen → p.awaited = some q → q ∉ seen →
    f.mfm = decide (size ≠ 0) → f.mark = .data → f.bytes.length = sectorSize size → k < s.slots.length →
    (s.slot k).state = .filling → (s.slot k).key = some key → (s.slot k).generation = gen →
    ((s.slot k).sector q).state = .absent → q' < (s.slot k).sectors.length → q' ≠ q →
    ((s.slot k).sector q').state = .absent →
    ∃ t, exec (.fillDataFieldRead f pins) s = .next t ∧
      t = { s with
        now := s.eventStamp
        pins := pins
        pass := some { p with round := .reading (seen ++ [q]), awaited := none }
        slots := if DataField.good f = true
          then s.slots.modify k (fun x => x.setSector q (fun _ => { state := .valid, report := false })) else s.slots
        mem := t.mem } ∧
      (∀ a, ¬ s.inControlBlock a → Memory.read t.mem a =
        if s.straps.poolBase + k * 8192 + q * sectorSize size ≤ a ∧
            a < s.straps.poolBase + k * 8192 + q * sectorSize size + sectorSize size
        then f.bytes.getD (a - (s.straps.poolBase + k * 8192 + q * sectorSize size)) 0 else Memory.read s.mem a) ∧
      ∀ o, o < 512 → t.shown o = s.refreshed t o) ∧
  ∀ (f : DataField) (pins : Pins) (p : Pass) (k : Nat) (key : Key) (gen : Byte) (ids : List Nat) (size : Fin 4) (verify : Bool)
    (seen : List Nat) (q : Nat) (s : State), s.Steady → s.pass = some p → p.target = .track k key gen ids size verify →
    p.recovering = false → (s.slot k).active = none → p.round = .reading seen → p.awaited = some q →
    f.mfm = decide (size ≠ 0) → f.mark = .data → f.bytes.length = sectorSize size → DataField.good f = true →
    k < s.slots.length → (s.slot k).state = .filling → (s.slot k).key = some key → (s.slot k).generation = gen →
    q < (s.slot k).sectors.length → ((s.slot k).sector q).state = .absent →
    (∀ j, j < (s.slot k).sectors.length → j ≠ q → ((s.slot k).sector j).state ≠ .absent) → (s.slot k).pendingWrite = none →
    key.drive = p.drive → s.settings.writeBackDelay ≠ 0 → s.OnlyOperation p.drive k →
    ∃ t, exec (.fillDataFieldRead f pins) s = .next t ∧
      t = { s with
        now := s.eventStamp
        pins := pins
        pass := none
        slots := s.slots.modify k (fun x =>
          { (x.setSector q (fun _ => { state := .valid, report := false })) with
            state := .resident
            dirtySince := if x.dirty = true then some s.now.ms else none })
        drives := upd s.drives p.drive (fun v => v.workEnded s.now.ms)
        mem := t.mem } ∧
      (∀ a, ¬ s.inControlBlock a → Memory.read t.mem a =
        if s.straps.poolBase + k * 8192 + q * sectorSize size ≤ a ∧
            a < s.straps.poolBase + k * 8192 + q * sectorSize size + sectorSize size
        then f.bytes.getD (a - (s.straps.poolBase + k * 8192 + q * sectorSize size)) 0 else Memory.read s.mem a) ∧
      ∀ o, o < 512 → t.shown o = s.refreshed t o

/-- The end of a written field with more to write and no URGENT operation POSITIONED elsewhere: the sector is no longer active,
and is WRITTEN with verify on and VALID with verify off; with the write list empty and verify on, the verify round begins with
the sectors written (R53, R87, R100, R101). With verify off the end of the last field to be written ends the pass: the slot is
RESIDENT and clean, the WRITE has ended and the channel is free; its drive, with no other operation, starts its head-unload timer
(R53, R55, R86, R116). With an URGENT FILL POSITIONED elsewhere, the WRITE below URGENT and the slot's yields below the limit, the
WRITE yields: OUTBOUND sectors become DIRTY again and WRITTEN ones VALID, its slot is RESIDENT with one more yield; the WRITE returns
to its queue, is chosen again at once, and, on its cylinder with the head loaded, is POSITIONED; the FILL gets the channel and its
pass begins (R56, R81, R82, R84, R85, R87, R88). -/
def Obligations.WrittenFieldEnds : Prop :=
  (∀ (pins : Pins) (p : Pass) (k : Nat) (key : Key) (gen : Byte) (ids : List Nat) (size : Fin 4) (verify : Bool)
    (todo written : List Nat) (q : Nat) (s : State), s.Steady → s.pass = some p →
    p.target = .track k key gen ids size verify → p.round = .writing todo written → (s.slot k).active = some q →
    ((s.slot k).sector q).state = .outbound → q < (s.slot k).sectors.length → k < s.slots.length →
    s.records[p.drive].pendingDiscard = false →
    s.urgentElsewhere p.drive = false → p.pulses ≤ p.retry → (todo.erase q ≠ [] ∨ verify = true) →
    ∃ t, exec (.writeFieldEnd pins) s = .next t ∧
      t = { s with
        now := s.eventStamp
        pins := pins
        pass := some (if todo.erase q = [] then
            { p with round := .verifying (written ++ [q]) [], pulses := 0, awaited := none }
          else { p with round := .writing (todo.erase q) (written ++ [q]) })
        slots := s.slots.modify k (fun x =>
          { (x.setSector q (fun e => { e with state := if verify = true then .written else .valid })) with active := none })
        mem := t.mem } ∧
      s.Stores t) ∧
  (∀ (pins : Pins) (p : Pass) (k : Nat) (key : Key) (gen : Byte) (ids : List Nat) (size : Fin 4)
    (todo written : List Nat) (q : Nat) (s : State), s.Steady → s.pass = some p →
    p.target = .track k key gen ids size false → p.round = .writing todo written → (s.slot k).active = some q →
    todo.erase q = [] → ((s.slot k).sector q).state = .outbound → q < (s.slot k).sectors.length → k < s.slots.length →
    (∀ j, j ≠ q → ((s.slot k).sector j).state = .valid ∨ ((s.slot k).sector j).state = .damaged) →
    (s.slot k).state = .writing → (s.slot k).key = some key → (s.slot k).generation = gen → key.drive = p.drive →
    s.records[p.drive].pendingDiscard = false → s.records[p.drive].flushSet = [] → s.NoSlotWaits →
    s.OnlyOperation p.drive k →
    ∃ t, exec (.writeFieldEnd pins) s = .next t ∧
      t = { s with
        now := s.eventStamp
        pins := pins
        pass := none
        slots := s.slots.modify k (fun x =>
          { (x.setSector q (fun e => { e with state := .valid })) with
            state := .resident
            dirtySince := none
            yields := 0
            active := none })
        drives := upd s.drives p.drive (fun v => v.workEnded s.now.ms)
        mem := t.mem } ∧
      s.Stores t) ∧
  ∀ (pins : Pins) (p : Pass) (k k' : Nat) (key : Key) (gen gen' : Byte) (ids : List Nat) (size : Fin 4) (verify evict : Bool)
    (todo written : List Nat) (q q' : Nat) (o o' : Op) (at_ : Stamp) (e : DriveNo) (s : State), s.Steady → s.pass = some p →
    p.target = .track k key gen ids size verify → p.round = .writing todo written → (s.slot k).active = some q →
    q' ∈ todo.erase q → q' ≠ q → ((s.slot k).sector q').state = .outbound → q' < (s.slot k).sectors.length →
    k < s.slots.length → (s.slot k).state = .writing → s.records[p.drive].pendingDiscard = false →
    s.records[p.drive].flushSet = [] → (s.slot k).yields < s.settings.yieldLimit.toNat →
    s.drives[p.drive].queue = [o] → o.work = .write k gen evict → o.phase = .transferring → o.cls ≠ .urgent →
    s.drives[p.drive].media = .loaded → s.drives[p.drive].head = some o.cylinder → s.drives[p.drive].step = none →
    e ≠ p.drive → s.drives[e].queue = [o'] → o'.phase = .positioned at_ → o'.cls = .urgent → o'.work = .fill k' gen' →
    k' ≠ k → (s.slot k').holds .absent = true → pins.ready.getLsbD e.val = true →
    (∀ x : DriveNo, x ≠ e → s.drives[x].positionedOp = none) →
    ∃ t, exec (.writeFieldEnd pins) s = .next t ∧
      (t.slot k).state = .resident ∧ (t.slot k).yields = (s.slot k).yields + 1 ∧ (t.slot k).active = none ∧
      (t.slot k).dirtySince = some s.now.ms ∧ (t.slot k).sectors.length = (s.slot k).sectors.length ∧
      (∀ j, j ≠ q → j < (s.slot k).sectors.length → ((t.slot k).sector j).state = match ((s.slot k).sector j).state with
        | .outbound => .dirty
        | .written => .valid
        | st => st) ∧
      (∀ j, j ≠ k → t.slot j = s.slot j) ∧ t.freeList = s.freeList ∧ t.recency = s.recency ∧ t.waiters = s.waiters ∧
      t.records = s.records ∧ t.faults = s.faults ∧
      t.drives[p.drive].queue = [{ o with phase := .positioned s.eventStamp, promoted := s.eventStamp }] ∧
      t.drives[e].queue = [{ o' with phase := .transferring }] ∧
      (∃ p', t.pass = some p' ∧ p'.drive = e ∧ p'.round = .reading [] ∧ p'.pulses = 0 ∧ p'.recals = 0) ∧
      ∀ a, ¬ s.inControlBlock a → Memory.read t.mem a = Memory.read s.mem a

/-- The data field of a written sector read back, with more left to verify: the sector leaves the verify list, and becomes VALID
where the field is good and DIRTY where its CRC is bad (R54, R101). The last sector to verify: where every result was good the
pass ends, its slot RESIDENT and clean, the WRITE ended and the channel free (R55, R86, R102); where it is the first bad result of
the pass, the sector is OUTBOUND again and the one rewrite of the pass begins (R54, R102). -/
def Obligations.VerifyResultApplied : Prop :=
  (∀ (f : DataField) (pins : Pins) (p : Pass) (k : Nat) (key : Key) (gen : Byte) (ids : List Nat) (size : Fin 4) (verify : Bool)
    (todo bad : List Nat) (q : Nat) (s : State), s.Steady → s.pass = some p → p.target = .track k key gen ids size verify →
    p.recovering = false → (s.slot k).active = none → p.round = .verifying todo bad → p.awaited = some q →
    f.mfm = decide (size ≠ 0) → f.mark = .data → f.bytes.length = sectorSize size → todo.erase q ≠ [] →
    k < s.slots.length → (s.slot k).state = .writing → (s.slot k).key = some key → (s.slot k).generation = gen →
    ((s.slot k).sector q).state = .written → q < (s.slot k).sectors.length →
    ∃ t, exec (.verifyDataFieldRead f pins) s = .next t ∧
      t = { s with
        now := s.eventStamp
        pins := pins
        pass := some { p with
          round := .verifying (todo.erase q) (if DataField.good f = true then bad else bad ++ [q])
          awaited := none }
        slots := s.slots.modify k (fun x =>
          x.setSector q (fun e => { e with state := if DataField.good f = true then .valid else .dirty }))
        mem := t.mem } ∧
      s.Stores t) ∧
  ∀ (f : DataField) (pins : Pins) (p : Pass) (k : Nat) (key : Key) (gen : Byte) (ids : List Nat) (size : Fin 4) (verify : Bool)
    (q : Nat) (s : State), s.Steady → s.pass = some p → p.target = .track k key gen ids size verify →
    p.recovering = false → (s.slot k).active = none → p.round = .verifying [q] [] → p.awaited = some q →
    f.mfm = decide (size ≠ 0) → f.mark = .data → f.bytes.length = sectorSize size →
    k < s.slots.length → (s.slot k).state = .writing → (s.slot k).key = some key → (s.slot k).generation = gen →
    ((s.slot k).sector q).state = .written → q < (s.slot k).sectors.length →
    (∀ j, j ≠ q → ((s.slot k).sector j).state = .valid ∨ ((s.slot k).sector j).state = .damaged) →
    (DataField.good f = true → key.drive = p.drive → s.records[p.drive].flushSet = [] → s.NoSlotWaits →
      s.OnlyOperation p.drive k →
      ∃ t, exec (.verifyDataFieldRead f pins) s = .next t ∧
        t = { s with
          now := s.eventStamp
          pins := pins
          pass := none
          slots := s.slots.modify k (fun x =>
            { (x.setSector q (fun e => { e with state := .valid })) with
              state := .resident
              dirtySince := none
              yields := 0
              active := none })
          drives := upd s.drives p.drive (fun v => v.workEnded s.now.ms)
          mem := t.mem } ∧
        s.Stores t) ∧
    (DataField.good f = false → p.rewrites = 0 →
      ∃ t, exec (.verifyDataFieldRead f pins) s = .next t ∧
        t = { s with
          now := s.eventStamp
          pins := pins
          pass := some { p with round := .writing [q] [], pulses := 0, awaited := none, rewrites := 1 }
          slots := s.slots.modify k (fun x => x.setSector q (fun e => { e with state := .outbound }))
          mem := t.mem } ∧
        s.Stores t)

/-- The label sector read good completes a MOUNT: MOUNTED with outcome DONE, the effective geometry of the latched fields and
the size code found, the stamp of the label's bytes, the generation advanced; the PROBE ends, the channel is free, and the
loaded drive's head-unload timer starts (R15, R23, R24, R86, R104 to R106, R116, R130, R136). -/
def Obligations.GoodLabelCompletesMount : Prop :=
  ∀ (f : DataField) (pins : Pins) (p : Pass) (asked : Option (Fin 4)) (size : Fin 4) (o : Op) (x : Nat) (g : Geometry)
    (s : State), s.Steady → s.pass = some p → p.target = .diskette asked → p.round = .label size → p.recovering = false →
    p.awaited = some x → f.mfm = decide (size ≠ 0) → f.mark = .data → f.bytes.length = sectorSize size →
    DataField.good f = true → s.volume p.drive = .mounting → s.drives[p.drive].queue = [o] → o.work = .probe →
    o.phase = .transferring → s.drives[p.drive].media = .loaded → s.settings.headUnload ≠ 0 →
    (∀ e : DriveNo, s.drives[e].positionedOp = none) →
    g = { size := size
          heads := if s.records[p.drive].latched.double = true then 2 else 1
          interleave := effectiveInterleave size s.records[p.drive].latched.interleave.toNat
          skew := effectiveSkew size s.records[p.drive].latched.skew.toNat } →
    ∃ t, exec (.labelDataFieldRead f pins) s = .next t ∧
      t = { s with
        now := s.eventStamp
        pins := pins
        pass := none
        probeBuffer := f.bytes ++ s.probeBuffer.drop f.bytes.length
        records := upd s.records p.drive (fun m =>
          { m with
            state := .mounted
            outcome := .done
            effSize := size
            effInterleave := g.interleave
            effSkew := g.skew
            stamp := some (stampOf f.bytes)
            generation := m.generation + 1
            progress := none })
        geometry := upd s.geometry p.drive (fun _ => some g)
        drives := upd s.drives p.drive (fun v =>
          { v with
            queue := []
            current := false
            move := .idle
            moved := false
            headUnload := some s.now.ms
            watch := none })
        mem := t.mem } ∧
      s.Stores t

/-! ### Arithmetic -/

/-- The sizes that a size code fixes, and the decomposition of an offset inside a volume of one or two sides: the formulas and
ranges of R19, the last byte among them, and the two bytes of a word in one sector (R16, R19, R20). -/
def Obligations.OffsetDecomposes : Prop :=
  (∀ c : Fin 4, (sectorSize c, sectorsPerTrack c, trackSize c) = (match c with
      | 0 => (128, 26, 3328)
      | 1 => (256, 26, 6656)
      | 2 => (512, 15, 7680)
      | 3 => (1024, 8, 8192)) ∧
    (recordedMfm c = false ↔ c = 0) ∧ trackSize c ≤ Config.slotSize) ∧
  ∀ (g : Geometry) (v : Nat), (g.heads = 1 ∨ g.heads = 2) →
    g.volumeSize = 77 * g.heads * trackSize g.size ∧ g.volumeSize ≤ 1261568 ∧ g.volumeSize < Config.windowSize ∧
    (v < g.volumeSize →
      (g.place v).cylinder = v / trackSize g.size / g.heads ∧ (g.place v).cylinder ≤ 76 ∧
      (g.place v).head = v / trackSize g.size % g.heads ∧ (g.place v).head < g.heads ∧
      (g.place v).offset = v % trackSize g.size ∧ (g.place v).offset < trackSize g.size ∧
      (g.place v).sector = (g.place v).offset / sectorSize g.size ∧ (g.place v).sector < sectorsPerTrack g.size ∧
      (g.heads = 1 → (g.place v).head = 0 ∧ (g.place v).cylinder = v / trackSize g.size) ∧
      (v % 2 = 0 → (g.place v).offset % sectorSize g.size ≤ sectorSize g.size - 2 ∧
        (g.place v).offset % 2 = 0 ∧
        g.place (v + 1) = { g.place v with offset := (g.place v).offset + 1 })) ∧
    (g.place (g.volumeSize - 1)).cylinder = 76 ∧ (g.place (g.volumeSize - 1)).head = g.heads - 1 ∧
    (g.place (g.volumeSize - 1)).sector = sectorsPerTrack g.size - 1 ∧
    (g.place (g.volumeSize - 1)).offset % sectorSize g.size = sectorSize g.size - 1

/-- The physical sector IDs of a cylinder: the formula of R21, all different, the whole range 1 to N, for either head, and 1 for
the label sector; a value of the range is found at its one position and no other value at any (R21). -/
def Obligations.SectorIdsCoverTrack : Prop :=
  ∀ (g : Geometry) (n : Nat), n = sectorsPerTrack g.size → Nat.gcd g.interleave n = 1 →
    (∀ c p, g.sectorId c p = (p * g.interleave + c * g.skew) % n + 1) ∧
    (∀ c, (g.idList c).length = n ∧ (g.idList c).Nodup ∧ (∀ x, x ∈ g.idList c ↔ 1 ≤ x ∧ x ≤ n) ∧
      (∀ p, p < n → positionOf (g.idList c) (g.sectorId c p) = some p) ∧
      (∀ x, ¬ (1 ≤ x ∧ x ≤ n) → positionOf (g.idList c) x = none)) ∧
    (∀ h, sectorsPerTrack ({ g with heads := h } : Geometry).size = n ∧ ∀ c, ({ g with heads := h } : Geometry).idList c = g.idList c) ∧
    g.sectorId 0 0 = 1

/-- The effective interleave and skew of a mount from the host values: clamped by R23, never refused, an interleave that shares
no factor with N; which values each size code keeps; the mount that ends with a size found is MOUNTED, is served with the
clamped values and reports them (R23). -/
def Obligations.InterleaveClamp : Prop :=
  ∀ (l : Latched) (size : Fin 4) (n i : Nat), n = sectorsPerTrack size → i = l.interleave.toNat % n →
    ((i = 0 ∨ Nat.gcd i n ≠ 1) → (l.geometry size).interleave = 1) ∧
    (i ≠ 0 → Nat.gcd i n = 1 → (l.geometry size).interleave = i) ∧
    (l.geometry size).skew = l.skew.toNat % n ∧
    1 ≤ (l.geometry size).interleave ∧ (l.geometry size).interleave ≤ n - 1 ∧
    Nat.gcd (l.geometry size).interleave n = 1 ∧ (l.geometry size).skew ≤ n - 1 ∧
    (l.interleave = 1 → (l.geometry size).interleave = 1) ∧ (l.skew = 0 → (l.geometry size).skew = 0) ∧
    ((size = 0 ∨ size = 1) → ((l.geometry size).interleave = i ↔ i % 2 = 1 ∧ i ≠ 13)) ∧
    (size = 2 → ((l.geometry size).interleave = i ↔ i % 3 ≠ 0 ∧ i % 5 ≠ 0)) ∧
    (size = 3 → ((l.geometry size).interleave = i ↔ i % 2 = 1)) ∧
    ∀ (s : State) (d : DriveNo) (stamp : Option Word), s.records[d].latched = l →
      (s.mountEnd d (.found size stamp)).volume d = .mounted ∧
      (s.mountEnd d (.found size stamp)).geometry[d] = some (l.geometry size) ∧
      (s.mountEnd d (.found size stamp)).records[d].effInterleave = (l.geometry size).interleave ∧
      (s.mountEnd d (.found size stamp)).records[d].effSkew = (l.geometry size).skew

/-- The stamp of a label: the two sums of R105 byte by byte from 0, each below 255, the stamp second × 256 + first, and no byte
of it FFh; labels that differ by 00h against FFh alone have one stamp, blank labels the stamp 0000h, and labels that differ in
one byte otherwise have two stamps (R105). The remark on the order of the bytes is no formula and is left out (log 27). -/
def Obligations.StampSums : Prop :=
  stampSums [] = (0, 0) ∧
  (∀ (bs : List Byte) (b : Byte),
    (stampSums (bs ++ [b])).1 = ((stampSums bs).1 + b.toNat) % 255 ∧
    (stampSums (bs ++ [b])).2 = ((stampSums bs).2 + (stampSums (bs ++ [b])).1) % 255) ∧
  ∀ bs : List Byte, (stampSums bs).1 ≤ 254 ∧ (stampSums bs).2 ≤ 254 ∧
    (stampOf bs).toNat = (stampSums bs).2 * 256 + (stampSums bs).1 ∧
    loByte (stampOf bs) ≠ 0xFF ∧ hiByte (stampOf bs) ≠ 0xFF ∧
    stampOf (bs.map (fun b => if b = 0xFF then 0 else b)) = stampOf bs ∧
    ((∀ b ∈ bs, b = 0x00 ∨ b = 0xFF) → stampOf bs = 0) ∧
    ∀ (cs : List Byte) (a b : Byte), a ≠ b → ¬ (a = 0x00 ∧ b = 0xFF) → ¬ (a = 0xFF ∧ b = 0x00) →
      stampOf (bs ++ a :: cs) ≠ stampOf (bs ++ b :: cs)

/-- The attention line is asserted exactly while an outcome or a fault code is not NONE (R14). -/
def Obligations.AttentionFollowsOutcomesAndFaults : Prop :=
  ∀ s : State, s.attention = true ↔
    (∃ d : DriveNo, s.records[d].outcome ≠ .none) ∨ ∃ i : Fin 5, s.faults[i].code ≠ .none

/-! ### Invariants that every step keeps -/

/-- Every step keeps the tables sound: DRAM in canonical form, one slot entry for each slot in force, requester 0 not BARRED,
every Setting in its range, and the interleave, skew and retry limit of every Mount Record in theirs (R35, R123, R148, R149,
R150). It keeps the queues sound: of each drive at most one operation is current and no two are for one slot, and at most one
operation of all holds the channel (R75, R76, R84). And it keeps the slot table and its lists sound: the free list holds every
FREE slot once, the recency order every other slot once, no two slots have one key, and only a WRITING slot has an active sector
(R35, R38, R46, R47, R53). -/
def Obligations.TablesStaySound : Prop :=
  ∀ s t : State, step s = .next t →
    (s.QueuesSound → t.QueuesSound) ∧ (s.DirectorySound → t.DirectorySound) ∧
    (Memory.wf s.mem → s.SlotsSized → s.HostNotBarred → s.settings.InRange → s.HostInRange →
      Memory.wf t.mem ∧ t.SlotsSized ∧ t.HostNotBarred ∧ t.settings.InRange ∧ t.HostInRange)

/-- Every step keeps DRAM showing the part's copies of the Control Block fields, as far as a writing in progress has come: what a
read of the block gives is what the part acts on (R8, R147). -/
def Obligations.ControlBlockShowsCopies : Prop :=
  ∀ s t : State, step s = .next t → s.CopiesShown → t.CopiesShown

/-- No command but a bus cycle and a power-on reset changes a byte of DRAM below the slot pool outside the Control Block: neither
the part's own work, nor the default writing, nor reset-flush touches ordinary memory (R7). -/
def Obligations.OrdinaryMemoryUntouched : Prop :=
  ∀ (c : Instr) (s t : State), exec c s = .next t →
    (∀ a op r, c ≠ .ordinaryCycle a op r) → (∀ a op r, c ≠ .unpopulatedCycle a op r) → (∀ a l r, c ≠ .apertureWrite a l r) →
    (∀ lines doors pins, c ≠ .powerOnReset lines doors pins) →
    ∀ a, a < s.straps.poolBase → ¬ s.inControlBlock a → Memory.read t.mem a = Memory.read s.mem a

/-- The state right after reset is sound, its queues and its slot table among the rest, and DRAM shows what the part's copies give
as far as the default writing has come; the number of slots comes of the strapped levels the model chose (log 1), the progress of
the writing of log 6. -/
def Obligations.ResetIsSound : Prop :=
  Memory.wf State.reset.mem ∧ State.reset.SlotsSized ∧ State.reset.HostNotBarred ∧ State.reset.settings.InRange ∧
    State.reset.HostInRange ∧ State.reset.CopiesShown ∧ State.reset.QueuesSound ∧ State.reset.DirectorySound
end

