-- ==== Sys2Proof/Laws/Memory.lean ====
section
/-! SUPPORT. DRAM: what a read gives after a store, and that a store keeps the canonical form. -/

namespace Sys2Proof.Machine

theorem Memory.lookup_filter (m : List Host.Cell) (q : Nat → Bool) (x : Nat) :
    (m.filter (fun c => q c.1)).lookup x = if q x then m.lookup x else none := by
  induction m with
  | nil => simp
  | cons c m ih =>
    obtain ⟨k, b⟩ := c
    by_cases hk : x = k
    · subst hk
      cases hq : q x
      · rw [List.filter_cons_of_neg (by simp [hq]), ih, hq]; simp
      · rw [List.filter_cons_of_pos (by simpa using hq)]; simp
    · have hb : (x == k) = false := by simpa using hk
      cases hq : q k
      · rw [List.filter_cons_of_neg (by simp [hq]), ih, List.lookup_cons, hb]
      · rw [List.filter_cons_of_pos (by simpa using hq), List.lookup_cons, List.lookup_cons, hb, ih]

theorem Memory.lookup_append (l m : List Host.Cell) (x : Nat) :
    (l ++ m).lookup x = (l.lookup x).or (m.lookup x) := by
  induction l with
  | nil => simp
  | cons c l ih =>
    obtain ⟨k, b⟩ := c
    rw [List.cons_append, List.lookup_cons, List.lookup_cons, ih]
    cases x == k <;> simp

theorem Memory.lookup_cells_low (a : Nat) (bs : List Byte) (x : Nat) (h : x < a) : (Memory.cells a bs).lookup x = none := by
  induction bs generalizing a with
  | nil => simp [Memory.cells]
  | cons b bs ih =>
    have hb : (x == a) = false := by simp; omega
    unfold Memory.cells
    split
    · exact ih (a + 1) (by omega)
    · rw [List.lookup_cons, hb]; exact ih (a + 1) (by omega)

theorem Memory.lookup_cells (a : Nat) (bs : List Byte) (x : Nat) (h : a ≤ x) :
    ((Memory.cells a bs).lookup x).getD Config.blankByte = bs.getD (x - a) Config.blankByte := by
  induction bs generalizing a with
  | nil => simp [Memory.cells]
  | cons b bs ih =>
    unfold Memory.cells
    rcases Nat.eq_or_lt_of_le h with rfl | hlt
    · split
      · rename_i hb; rw [Memory.lookup_cells_low _ _ _ (by omega)]; simp [hb]
      · simp
    · have hb : (x == a) = false := by simp; omega
      have hx : x - a = (x - (a + 1)) + 1 := by omega
      rw [hx, List.getD_cons_succ, ← ih (a + 1) (by omega)]
      split
      · rfl
      · rw [List.lookup_cons, hb]

theorem Memory.lookup_cells_high (a : Nat) (bs : List Byte) (x : Nat) (h : a + bs.length ≤ x) :
    (Memory.cells a bs).lookup x = none := by
  induction bs generalizing a with
  | nil => simp [Memory.cells]
  | cons b bs ih =>
    simp only [List.length_cons] at h
    have hb : (x == a) = false := by simp; omega
    unfold Memory.cells
    split
    · exact ih (a + 1) (by omega)
    · rw [List.lookup_cons, hb]; exact ih (a + 1) (by omega)

/-- What a read gives after a store: the byte stored, or the byte that was there. -/
theorem Memory.read_store (m : List Host.Cell) (a : Nat) (bs : List Byte) (x : Nat) :
    Memory.read (Memory.store m a bs) x =
      if a ≤ x ∧ x < a + bs.length then bs.getD (x - a) Config.blankByte else Memory.read m x := by
  unfold Memory.read Memory.store
  rw [Memory.lookup_append, Memory.lookup_append, Memory.lookup_filter m (fun k => decide (k < a)),
    Memory.lookup_filter m (fun k => decide (a + bs.length ≤ k))]
  by_cases h1 : x < a
  · simp [h1, Memory.lookup_cells_low, Nat.not_le.mpr h1, show ¬ (a + bs.length ≤ x) by omega]
  · by_cases h2 : x < a + bs.length
    · have := Memory.lookup_cells a bs x (by omega)
      simp [h1, h2, Nat.not_le.mpr h2, Nat.le_of_not_lt h1, this]
    · simp [h1, h2, Nat.le_of_not_lt h2, Memory.lookup_cells_high]

/-- A store leaves every byte outside its run as it was. -/
theorem Memory.read_store_of_not_mem (m : List Host.Cell) (a : Nat) (bs : List Byte) (x : Nat)
    (h : x < a ∨ a + bs.length ≤ x) : Memory.read (Memory.store m a bs) x = Memory.read m x := by
  rw [Memory.read_store, if_neg (by omega)]

theorem Memory.cells_bounds (a : Nat) (bs : List Byte) :
    ∀ c ∈ Memory.cells a bs, a ≤ c.1 ∧ c.1 < a + bs.length ∧ c.2 ≠ Config.blankByte := by
  induction bs generalizing a with
  | nil => simp [Memory.cells]
  | cons b bs ih =>
    intro c hc
    unfold Memory.cells at hc
    simp only [List.length_cons]
    split at hc
    · obtain ⟨h1, h2, h3⟩ := ih (a + 1) c hc; exact ⟨by omega, by omega, h3⟩
    · rename_i hb
      rcases List.mem_cons.mp hc with rfl | hc
      · exact ⟨by simp, by simp, hb⟩
      · obtain ⟨h1, h2, h3⟩ := ih (a + 1) c hc; exact ⟨by omega, by omega, h3⟩

theorem Memory.cells_pairwise (a : Nat) (bs : List Byte) : (Memory.cells a bs).Pairwise (fun c e => c.1 < e.1) := by
  induction bs generalizing a with
  | nil => simp [Memory.cells]
  | cons b bs ih =>
    unfold Memory.cells
    split
    · exact ih (a + 1)
    · exact List.pairwise_cons.mpr ⟨fun c hc => by have h := (Memory.cells_bounds (a + 1) bs c hc).1; show a < c.1; omega, ih (a + 1)⟩

/-- A store keeps the canonical form. -/
theorem Memory.wf_store {m : List Host.Cell} (h : Memory.wf m) (a : Nat) (bs : List Byte) :
    Memory.wf (Memory.store m a bs) := by
  obtain ⟨hp, hb⟩ := h
  unfold Memory.wf Memory.store
  refine ⟨List.pairwise_append.mpr ⟨List.pairwise_append.mpr ⟨hp.filter _, Memory.cells_pairwise a bs, ?_⟩, hp.filter _, ?_⟩,
    ?_⟩
  · intro c hc e he
    have := Memory.cells_bounds a bs e he
    have := (List.mem_filter.mp hc).2
    simp at this
    omega
  · intro c hc e he
    have he := (List.mem_filter.mp he).2
    simp at he
    rcases List.mem_append.mp hc with hc | hc
    · have := (List.mem_filter.mp hc).2
      simp at this
      omega
    · have := Memory.cells_bounds a bs c hc
      omega
  · intro c hc
    rcases List.mem_append.mp hc with hc | hc
    · rcases List.mem_append.mp hc with hc | hc
      · exact hb c (List.mem_filter.mp hc).1
      · exact (Memory.cells_bounds a bs c hc).2.2
    · exact hb c (List.mem_filter.mp hc).1

/-- A write of the enabled bytes of a word keeps the canonical form. -/
theorem Memory.wf_storeLanes {m : List Host.Cell} (h : Memory.wf m) (a : Nat) (l : Lanes) :
    Memory.wf (Memory.storeLanes m a l) := by
  unfold Memory.storeLanes
  cases l.lo <;> cases l.hi
  · exact h
  · exact Memory.wf_store h _ _
  · exact Memory.wf_store h _ _
  · exact Memory.wf_store (Memory.wf_store h _ _) _ _

/-- What a read gives after a store of one byte. -/
theorem Memory.read_store_byte (m : List Host.Cell) (a : Nat) (b : Byte) (x : Nat) :
    Memory.read (Memory.store m a [b]) x = if x = a then b else Memory.read m x := by
  rw [Memory.read_store, List.length_singleton]
  by_cases h : x = a
  · subst h; simp
  · rw [if_neg (by omega), if_neg h]

/-- What a read gives after a write of the enabled bytes of a word: the byte on its lane, or the byte that was there. -/
theorem Memory.read_storeLanes (m : List Host.Cell) (a : Nat) (l : Lanes) (x : Nat) :
    Memory.read (Memory.storeLanes m a l) x =
      if x = a then l.lo.getD (Memory.read m x) else if x = a + 1 then l.hi.getD (Memory.read m x) else Memory.read m x := by
  unfold Memory.storeLanes
  rcases h0 : l.lo with _ | b <;> rcases h1 : l.hi with _ | e <;>
    simp only [Memory.read_store_byte, Option.getD_none, Option.getD_some] <;> split_ifs <;> first | rfl | omega

end Sys2Proof.Machine
end

