-- ==== Sys2Proof/Laws/State.lean ====
section
/-! SUPPORT. The small lemmas of tables and of state updates: what each update leaves of each field of State. -/

namespace Sys2Proof.Machine

/-! ### Tables -/

theorem upd_get {α : Type} {n : Nat} (v : Vector α n) (i j : Fin n) (f : α → α) :
    (upd v i f)[j] = if i = j then f v[i] else v[j] := by
  unfold upd
  by_cases h : i = j
  · subst h; simp
  · have hv : i.val ≠ j.val := fun e => h (Fin.ext e)
    simp only [if_neg h, Fin.getElem_fin]
    exact Vector.getElem_set_ne (h := hv) ..

@[simp] theorem upd_get_same {α : Type} {n : Nat} (v : Vector α n) (i : Fin n) (f : α → α) : (upd v i f)[i] = f v[i] := by
  rw [upd_get, if_pos rfl]

theorem upd_get_ne {α : Type} {n : Nat} (v : Vector α n) {i j : Fin n} (f : α → α) (h : i ≠ j) : (upd v i f)[j] = v[j] := by
  rw [upd_get, if_neg h]

@[simp] theorem updAll_get {α : Type} {n : Nat} (v : Vector α n) (f : α → α) (i : Fin n) : (updAll v f)[i] = f v[i] := by
  simp [updAll, Fin.getElem_fin]

/-! ### updDrive -/

@[simp] theorem State.updDrive_pending (s : State) (d : DriveNo) (f : Drive → Drive) : (s.updDrive d f).pending = s.pending := rfl
@[simp] theorem State.updDrive_now (s : State) (d : DriveNo) (f : Drive → Drive) : (s.updDrive d f).now = s.now := rfl
@[simp] theorem State.updDrive_pins (s : State) (d : DriveNo) (f : Drive → Drive) : (s.updDrive d f).pins = s.pins := rfl
@[simp] theorem State.updDrive_doors (s : State) (d : DriveNo) (f : Drive → Drive) : (s.updDrive d f).doors = s.doors := rfl
@[simp] theorem State.updDrive_answer (s : State) (d : DriveNo) (f : Drive → Drive) : (s.updDrive d f).answer = s.answer := rfl
@[simp] theorem State.updDrive_straps (s : State) (d : DriveNo) (f : Drive → Drive) : (s.updDrive d f).straps = s.straps := rfl
@[simp] theorem State.updDrive_mem (s : State) (d : DriveNo) (f : Drive → Drive) : (s.updDrive d f).mem = s.mem := rfl
@[simp] theorem State.updDrive_phase (s : State) (d : DriveNo) (f : Drive → Drive) : (s.updDrive d f).phase = s.phase := rfl
@[simp] theorem State.updDrive_waiters (s : State) (d : DriveNo) (f : Drive → Drive) : (s.updDrive d f).waiters = s.waiters := rfl
@[simp] theorem State.updDrive_geometry (s : State) (d : DriveNo) (f : Drive → Drive) : (s.updDrive d f).geometry = s.geometry := rfl
@[simp] theorem State.updDrive_slots (s : State) (d : DriveNo) (f : Drive → Drive) : (s.updDrive d f).slots = s.slots := rfl
@[simp] theorem State.updDrive_freeList (s : State) (d : DriveNo) (f : Drive → Drive) : (s.updDrive d f).freeList = s.freeList := rfl
@[simp] theorem State.updDrive_recency (s : State) (d : DriveNo) (f : Drive → Drive) : (s.updDrive d f).recency = s.recency := rfl
@[simp] theorem State.updDrive_drives (s : State) (d : DriveNo) (f : Drive → Drive) : (s.updDrive d f).drives = upd s.drives d f := rfl
@[simp] theorem State.updDrive_pass (s : State) (d : DriveNo) (f : Drive → Drive) : (s.updDrive d f).pass = s.pass := rfl
@[simp] theorem State.updDrive_probeBuffer (s : State) (d : DriveNo) (f : Drive → Drive) : (s.updDrive d f).probeBuffer = s.probeBuffer := rfl
@[simp] theorem State.updDrive_fieldOut (s : State) (d : DriveNo) (f : Drive → Drive) : (s.updDrive d f).fieldOut = s.fieldOut := rfl
@[simp] theorem State.updDrive_records (s : State) (d : DriveNo) (f : Drive → Drive) : (s.updDrive d f).records = s.records := rfl
@[simp] theorem State.updDrive_faults (s : State) (d : DriveNo) (f : Drive → Drive) : (s.updDrive d f).faults = s.faults := rfl
@[simp] theorem State.updDrive_settings (s : State) (d : DriveNo) (f : Drive → Drive) : (s.updDrive d f).settings = s.settings := rfl
@[simp] theorem State.updDrive_classes (s : State) (d : DriveNo) (f : Drive → Drive) : (s.updDrive d f).classes = s.classes := rfl
@[simp] theorem State.updDrive_layoutVersion (s : State) (d : DriveNo) (f : Drive → Drive) : (s.updDrive d f).layoutVersion = s.layoutVersion := rfl

/-! ### updRecord -/

@[simp] theorem State.updRecord_pending (s : State) (d : DriveNo) (f : MountRecord → MountRecord) : (s.updRecord d f).pending = s.pending := rfl
@[simp] theorem State.updRecord_now (s : State) (d : DriveNo) (f : MountRecord → MountRecord) : (s.updRecord d f).now = s.now := rfl
@[simp] theorem State.updRecord_pins (s : State) (d : DriveNo) (f : MountRecord → MountRecord) : (s.updRecord d f).pins = s.pins := rfl
@[simp] theorem State.updRecord_doors (s : State) (d : DriveNo) (f : MountRecord → MountRecord) : (s.updRecord d f).doors = s.doors := rfl
@[simp] theorem State.updRecord_answer (s : State) (d : DriveNo) (f : MountRecord → MountRecord) : (s.updRecord d f).answer = s.answer := rfl
@[simp] theorem State.updRecord_straps (s : State) (d : DriveNo) (f : MountRecord → MountRecord) : (s.updRecord d f).straps = s.straps := rfl
@[simp] theorem State.updRecord_mem (s : State) (d : DriveNo) (f : MountRecord → MountRecord) : (s.updRecord d f).mem = s.mem := rfl
@[simp] theorem State.updRecord_phase (s : State) (d : DriveNo) (f : MountRecord → MountRecord) : (s.updRecord d f).phase = s.phase := rfl
@[simp] theorem State.updRecord_waiters (s : State) (d : DriveNo) (f : MountRecord → MountRecord) : (s.updRecord d f).waiters = s.waiters := rfl
@[simp] theorem State.updRecord_geometry (s : State) (d : DriveNo) (f : MountRecord → MountRecord) : (s.updRecord d f).geometry = s.geometry := rfl
@[simp] theorem State.updRecord_slots (s : State) (d : DriveNo) (f : MountRecord → MountRecord) : (s.updRecord d f).slots = s.slots := rfl
@[simp] theorem State.updRecord_freeList (s : State) (d : DriveNo) (f : MountRecord → MountRecord) : (s.updRecord d f).freeList = s.freeList := rfl
@[simp] theorem State.updRecord_recency (s : State) (d : DriveNo) (f : MountRecord → MountRecord) : (s.updRecord d f).recency = s.recency := rfl
@[simp] theorem State.updRecord_drives (s : State) (d : DriveNo) (f : MountRecord → MountRecord) : (s.updRecord d f).drives = s.drives := rfl
@[simp] theorem State.updRecord_pass (s : State) (d : DriveNo) (f : MountRecord → MountRecord) : (s.updRecord d f).pass = s.pass := rfl
@[simp] theorem State.updRecord_probeBuffer (s : State) (d : DriveNo) (f : MountRecord → MountRecord) : (s.updRecord d f).probeBuffer = s.probeBuffer := rfl
@[simp] theorem State.updRecord_fieldOut (s : State) (d : DriveNo) (f : MountRecord → MountRecord) : (s.updRecord d f).fieldOut = s.fieldOut := rfl
@[simp] theorem State.updRecord_records (s : State) (d : DriveNo) (f : MountRecord → MountRecord) : (s.updRecord d f).records = upd s.records d f := rfl
@[simp] theorem State.updRecord_faults (s : State) (d : DriveNo) (f : MountRecord → MountRecord) : (s.updRecord d f).faults = s.faults := rfl
@[simp] theorem State.updRecord_settings (s : State) (d : DriveNo) (f : MountRecord → MountRecord) : (s.updRecord d f).settings = s.settings := rfl
@[simp] theorem State.updRecord_classes (s : State) (d : DriveNo) (f : MountRecord → MountRecord) : (s.updRecord d f).classes = s.classes := rfl
@[simp] theorem State.updRecord_layoutVersion (s : State) (d : DriveNo) (f : MountRecord → MountRecord) : (s.updRecord d f).layoutVersion = s.layoutVersion := rfl

/-! ### updSlot -/

@[simp] theorem State.updSlot_pending (s : State) (k : Nat) (f : Slot → Slot) : (s.updSlot k f).pending = s.pending := rfl
@[simp] theorem State.updSlot_now (s : State) (k : Nat) (f : Slot → Slot) : (s.updSlot k f).now = s.now := rfl
@[simp] theorem State.updSlot_pins (s : State) (k : Nat) (f : Slot → Slot) : (s.updSlot k f).pins = s.pins := rfl
@[simp] theorem State.updSlot_doors (s : State) (k : Nat) (f : Slot → Slot) : (s.updSlot k f).doors = s.doors := rfl
@[simp] theorem State.updSlot_answer (s : State) (k : Nat) (f : Slot → Slot) : (s.updSlot k f).answer = s.answer := rfl
@[simp] theorem State.updSlot_straps (s : State) (k : Nat) (f : Slot → Slot) : (s.updSlot k f).straps = s.straps := rfl
@[simp] theorem State.updSlot_mem (s : State) (k : Nat) (f : Slot → Slot) : (s.updSlot k f).mem = s.mem := rfl
@[simp] theorem State.updSlot_phase (s : State) (k : Nat) (f : Slot → Slot) : (s.updSlot k f).phase = s.phase := rfl
@[simp] theorem State.updSlot_waiters (s : State) (k : Nat) (f : Slot → Slot) : (s.updSlot k f).waiters = s.waiters := rfl
@[simp] theorem State.updSlot_geometry (s : State) (k : Nat) (f : Slot → Slot) : (s.updSlot k f).geometry = s.geometry := rfl
@[simp] theorem State.updSlot_slots (s : State) (k : Nat) (f : Slot → Slot) : (s.updSlot k f).slots = s.slots.modify k f := rfl
@[simp] theorem State.updSlot_freeList (s : State) (k : Nat) (f : Slot → Slot) : (s.updSlot k f).freeList = s.freeList := rfl
@[simp] theorem State.updSlot_recency (s : State) (k : Nat) (f : Slot → Slot) : (s.updSlot k f).recency = s.recency := rfl
@[simp] theorem State.updSlot_drives (s : State) (k : Nat) (f : Slot → Slot) : (s.updSlot k f).drives = s.drives := rfl
@[simp] theorem State.updSlot_pass (s : State) (k : Nat) (f : Slot → Slot) : (s.updSlot k f).pass = s.pass := rfl
@[simp] theorem State.updSlot_probeBuffer (s : State) (k : Nat) (f : Slot → Slot) : (s.updSlot k f).probeBuffer = s.probeBuffer := rfl
@[simp] theorem State.updSlot_fieldOut (s : State) (k : Nat) (f : Slot → Slot) : (s.updSlot k f).fieldOut = s.fieldOut := rfl
@[simp] theorem State.updSlot_records (s : State) (k : Nat) (f : Slot → Slot) : (s.updSlot k f).records = s.records := rfl
@[simp] theorem State.updSlot_faults (s : State) (k : Nat) (f : Slot → Slot) : (s.updSlot k f).faults = s.faults := rfl
@[simp] theorem State.updSlot_settings (s : State) (k : Nat) (f : Slot → Slot) : (s.updSlot k f).settings = s.settings := rfl
@[simp] theorem State.updSlot_classes (s : State) (k : Nat) (f : Slot → Slot) : (s.updSlot k f).classes = s.classes := rfl
@[simp] theorem State.updSlot_layoutVersion (s : State) (k : Nat) (f : Slot → Slot) : (s.updSlot k f).layoutVersion = s.layoutVersion := rfl

/-! ### setWaiter -/

@[simp] theorem State.setWaiter_pending (s : State) (r : Requester) (e : WaiterEntry) : (s.setWaiter r e).pending = s.pending := rfl
@[simp] theorem State.setWaiter_now (s : State) (r : Requester) (e : WaiterEntry) : (s.setWaiter r e).now = s.now := rfl
@[simp] theorem State.setWaiter_pins (s : State) (r : Requester) (e : WaiterEntry) : (s.setWaiter r e).pins = s.pins := rfl
@[simp] theorem State.setWaiter_doors (s : State) (r : Requester) (e : WaiterEntry) : (s.setWaiter r e).doors = s.doors := rfl
@[simp] theorem State.setWaiter_answer (s : State) (r : Requester) (e : WaiterEntry) : (s.setWaiter r e).answer = s.answer := rfl
@[simp] theorem State.setWaiter_straps (s : State) (r : Requester) (e : WaiterEntry) : (s.setWaiter r e).straps = s.straps := rfl
@[simp] theorem State.setWaiter_mem (s : State) (r : Requester) (e : WaiterEntry) : (s.setWaiter r e).mem = s.mem := rfl
@[simp] theorem State.setWaiter_phase (s : State) (r : Requester) (e : WaiterEntry) : (s.setWaiter r e).phase = s.phase := rfl
@[simp] theorem State.setWaiter_waiters (s : State) (r : Requester) (e : WaiterEntry) : (s.setWaiter r e).waiters = upd s.waiters r (fun _ => e) := rfl
@[simp] theorem State.setWaiter_geometry (s : State) (r : Requester) (e : WaiterEntry) : (s.setWaiter r e).geometry = s.geometry := rfl
@[simp] theorem State.setWaiter_slots (s : State) (r : Requester) (e : WaiterEntry) : (s.setWaiter r e).slots = s.slots := rfl
@[simp] theorem State.setWaiter_freeList (s : State) (r : Requester) (e : WaiterEntry) : (s.setWaiter r e).freeList = s.freeList := rfl
@[simp] theorem State.setWaiter_recency (s : State) (r : Requester) (e : WaiterEntry) : (s.setWaiter r e).recency = s.recency := rfl
@[simp] theorem State.setWaiter_drives (s : State) (r : Requester) (e : WaiterEntry) : (s.setWaiter r e).drives = s.drives := rfl
@[simp] theorem State.setWaiter_pass (s : State) (r : Requester) (e : WaiterEntry) : (s.setWaiter r e).pass = s.pass := rfl
@[simp] theorem State.setWaiter_probeBuffer (s : State) (r : Requester) (e : WaiterEntry) : (s.setWaiter r e).probeBuffer = s.probeBuffer := rfl
@[simp] theorem State.setWaiter_fieldOut (s : State) (r : Requester) (e : WaiterEntry) : (s.setWaiter r e).fieldOut = s.fieldOut := rfl
@[simp] theorem State.setWaiter_records (s : State) (r : Requester) (e : WaiterEntry) : (s.setWaiter r e).records = s.records := rfl
@[simp] theorem State.setWaiter_faults (s : State) (r : Requester) (e : WaiterEntry) : (s.setWaiter r e).faults = s.faults := rfl
@[simp] theorem State.setWaiter_settings (s : State) (r : Requester) (e : WaiterEntry) : (s.setWaiter r e).settings = s.settings := rfl
@[simp] theorem State.setWaiter_classes (s : State) (r : Requester) (e : WaiterEntry) : (s.setWaiter r e).classes = s.classes := rfl
@[simp] theorem State.setWaiter_layoutVersion (s : State) (r : Requester) (e : WaiterEntry) : (s.setWaiter r e).layoutVersion = s.layoutVersion := rfl

/-! ### advance -/

@[simp] theorem State.advance_pending (s : State) (ms : Nat) : (s.advance ms).pending = s.pending := rfl
@[simp] theorem State.advance_now (s : State) (ms : Nat) : (s.advance ms).now = { s.now with ms := max s.now.ms ms } := rfl
@[simp] theorem State.advance_pins (s : State) (ms : Nat) : (s.advance ms).pins = s.pins := rfl
@[simp] theorem State.advance_doors (s : State) (ms : Nat) : (s.advance ms).doors = s.doors := rfl
@[simp] theorem State.advance_answer (s : State) (ms : Nat) : (s.advance ms).answer = s.answer := rfl
@[simp] theorem State.advance_straps (s : State) (ms : Nat) : (s.advance ms).straps = s.straps := rfl
@[simp] theorem State.advance_mem (s : State) (ms : Nat) : (s.advance ms).mem = s.mem := rfl
@[simp] theorem State.advance_phase (s : State) (ms : Nat) : (s.advance ms).phase = s.phase := rfl
@[simp] theorem State.advance_waiters (s : State) (ms : Nat) : (s.advance ms).waiters = s.waiters := rfl
@[simp] theorem State.advance_geometry (s : State) (ms : Nat) : (s.advance ms).geometry = s.geometry := rfl
@[simp] theorem State.advance_slots (s : State) (ms : Nat) : (s.advance ms).slots = s.slots := rfl
@[simp] theorem State.advance_freeList (s : State) (ms : Nat) : (s.advance ms).freeList = s.freeList := rfl
@[simp] theorem State.advance_recency (s : State) (ms : Nat) : (s.advance ms).recency = s.recency := rfl
@[simp] theorem State.advance_drives (s : State) (ms : Nat) : (s.advance ms).drives = s.drives := rfl
@[simp] theorem State.advance_pass (s : State) (ms : Nat) : (s.advance ms).pass = s.pass := rfl
@[simp] theorem State.advance_probeBuffer (s : State) (ms : Nat) : (s.advance ms).probeBuffer = s.probeBuffer := rfl
@[simp] theorem State.advance_fieldOut (s : State) (ms : Nat) : (s.advance ms).fieldOut = s.fieldOut := rfl
@[simp] theorem State.advance_records (s : State) (ms : Nat) : (s.advance ms).records = s.records := rfl
@[simp] theorem State.advance_faults (s : State) (ms : Nat) : (s.advance ms).faults = s.faults := rfl
@[simp] theorem State.advance_settings (s : State) (ms : Nat) : (s.advance ms).settings = s.settings := rfl
@[simp] theorem State.advance_classes (s : State) (ms : Nat) : (s.advance ms).classes = s.classes := rfl
@[simp] theorem State.advance_layoutVersion (s : State) (ms : Nat) : (s.advance ms).layoutVersion = s.layoutVersion := rfl

/-! ### sense -/

@[simp] theorem State.sense_pending (s : State) (p : Pins) : (s.sense p).pending = s.pending := rfl
@[simp] theorem State.sense_now (s : State) (p : Pins) : (s.sense p).now = s.now := rfl
@[simp] theorem State.sense_pins (s : State) (p : Pins) : (s.sense p).pins = p := rfl
@[simp] theorem State.sense_doors (s : State) (p : Pins) : (s.sense p).doors = s.doors := rfl
@[simp] theorem State.sense_answer (s : State) (p : Pins) : (s.sense p).answer = s.answer := rfl
@[simp] theorem State.sense_straps (s : State) (p : Pins) : (s.sense p).straps = s.straps := rfl
@[simp] theorem State.sense_mem (s : State) (p : Pins) : (s.sense p).mem = s.mem := rfl
@[simp] theorem State.sense_phase (s : State) (p : Pins) : (s.sense p).phase = s.phase := rfl
@[simp] theorem State.sense_waiters (s : State) (p : Pins) : (s.sense p).waiters = s.waiters := rfl
@[simp] theorem State.sense_geometry (s : State) (p : Pins) : (s.sense p).geometry = s.geometry := rfl
@[simp] theorem State.sense_slots (s : State) (p : Pins) : (s.sense p).slots = s.slots := rfl
@[simp] theorem State.sense_freeList (s : State) (p : Pins) : (s.sense p).freeList = s.freeList := rfl
@[simp] theorem State.sense_recency (s : State) (p : Pins) : (s.sense p).recency = s.recency := rfl
@[simp] theorem State.sense_drives (s : State) (p : Pins) : (s.sense p).drives = s.drives := rfl
@[simp] theorem State.sense_pass (s : State) (p : Pins) : (s.sense p).pass = s.pass := rfl
@[simp] theorem State.sense_probeBuffer (s : State) (p : Pins) : (s.sense p).probeBuffer = s.probeBuffer := rfl
@[simp] theorem State.sense_fieldOut (s : State) (p : Pins) : (s.sense p).fieldOut = s.fieldOut := rfl
@[simp] theorem State.sense_records (s : State) (p : Pins) : (s.sense p).records = s.records := rfl
@[simp] theorem State.sense_faults (s : State) (p : Pins) : (s.sense p).faults = s.faults := rfl
@[simp] theorem State.sense_settings (s : State) (p : Pins) : (s.sense p).settings = s.settings := rfl
@[simp] theorem State.sense_classes (s : State) (p : Pins) : (s.sense p).classes = s.classes := rfl
@[simp] theorem State.sense_layoutVersion (s : State) (p : Pins) : (s.sense p).layoutVersion = s.layoutVersion := rfl

/-! ### answered -/

@[simp] theorem State.answered_pending (s : State) (a : Answer) : (s.answered a).pending = s.pending := rfl
@[simp] theorem State.answered_now (s : State) (a : Answer) : (s.answered a).now = s.now := rfl
@[simp] theorem State.answered_pins (s : State) (a : Answer) : (s.answered a).pins = s.pins := rfl
@[simp] theorem State.answered_doors (s : State) (a : Answer) : (s.answered a).doors = s.doors := rfl
@[simp] theorem State.answered_answer (s : State) (a : Answer) : (s.answered a).answer = some a := rfl
@[simp] theorem State.answered_straps (s : State) (a : Answer) : (s.answered a).straps = s.straps := rfl
@[simp] theorem State.answered_mem (s : State) (a : Answer) : (s.answered a).mem = s.mem := rfl
@[simp] theorem State.answered_phase (s : State) (a : Answer) : (s.answered a).phase = s.phase := rfl
@[simp] theorem State.answered_waiters (s : State) (a : Answer) : (s.answered a).waiters = s.waiters := rfl
@[simp] theorem State.answered_geometry (s : State) (a : Answer) : (s.answered a).geometry = s.geometry := rfl
@[simp] theorem State.answered_slots (s : State) (a : Answer) : (s.answered a).slots = s.slots := rfl
@[simp] theorem State.answered_freeList (s : State) (a : Answer) : (s.answered a).freeList = s.freeList := rfl
@[simp] theorem State.answered_recency (s : State) (a : Answer) : (s.answered a).recency = s.recency := rfl
@[simp] theorem State.answered_drives (s : State) (a : Answer) : (s.answered a).drives = s.drives := rfl
@[simp] theorem State.answered_pass (s : State) (a : Answer) : (s.answered a).pass = s.pass := rfl
@[simp] theorem State.answered_probeBuffer (s : State) (a : Answer) : (s.answered a).probeBuffer = s.probeBuffer := rfl
@[simp] theorem State.answered_fieldOut (s : State) (a : Answer) : (s.answered a).fieldOut = s.fieldOut := rfl
@[simp] theorem State.answered_records (s : State) (a : Answer) : (s.answered a).records = s.records := rfl
@[simp] theorem State.answered_faults (s : State) (a : Answer) : (s.answered a).faults = s.faults := rfl
@[simp] theorem State.answered_settings (s : State) (a : Answer) : (s.answered a).settings = s.settings := rfl
@[simp] theorem State.answered_classes (s : State) (a : Answer) : (s.answered a).classes = s.classes := rfl
@[simp] theorem State.answered_layoutVersion (s : State) (a : Answer) : (s.answered a).layoutVersion = s.layoutVersion := rfl

/-! ### report -/

@[simp] theorem State.report_pending (s : State) (d : DriveNo) (r : Report) : (s.report d r).pending = s.pending := rfl
@[simp] theorem State.report_now (s : State) (d : DriveNo) (r : Report) : (s.report d r).now = s.now := rfl
@[simp] theorem State.report_pins (s : State) (d : DriveNo) (r : Report) : (s.report d r).pins = s.pins := rfl
@[simp] theorem State.report_doors (s : State) (d : DriveNo) (r : Report) : (s.report d r).doors = s.doors := rfl
@[simp] theorem State.report_answer (s : State) (d : DriveNo) (r : Report) : (s.report d r).answer = s.answer := rfl
@[simp] theorem State.report_straps (s : State) (d : DriveNo) (r : Report) : (s.report d r).straps = s.straps := rfl
@[simp] theorem State.report_mem (s : State) (d : DriveNo) (r : Report) : (s.report d r).mem = s.mem := rfl
@[simp] theorem State.report_phase (s : State) (d : DriveNo) (r : Report) : (s.report d r).phase = s.phase := rfl
@[simp] theorem State.report_waiters (s : State) (d : DriveNo) (r : Report) : (s.report d r).waiters = s.waiters := rfl
@[simp] theorem State.report_geometry (s : State) (d : DriveNo) (r : Report) : (s.report d r).geometry = s.geometry := rfl
@[simp] theorem State.report_slots (s : State) (d : DriveNo) (r : Report) : (s.report d r).slots = s.slots := rfl
@[simp] theorem State.report_freeList (s : State) (d : DriveNo) (r : Report) : (s.report d r).freeList = s.freeList := rfl
@[simp] theorem State.report_recency (s : State) (d : DriveNo) (r : Report) : (s.report d r).recency = s.recency := rfl
@[simp] theorem State.report_drives (s : State) (d : DriveNo) (r : Report) : (s.report d r).drives = s.drives := rfl
@[simp] theorem State.report_pass (s : State) (d : DriveNo) (r : Report) : (s.report d r).pass = s.pass := rfl
@[simp] theorem State.report_probeBuffer (s : State) (d : DriveNo) (r : Report) : (s.report d r).probeBuffer = s.probeBuffer := rfl
@[simp] theorem State.report_fieldOut (s : State) (d : DriveNo) (r : Report) : (s.report d r).fieldOut = s.fieldOut := rfl
@[simp] theorem State.report_records (s : State) (d : DriveNo) (r : Report) : (s.report d r).records = s.records := rfl
@[simp] theorem State.report_faults (s : State) (d : DriveNo) (r : Report) : (s.report d r).faults = upd s.faults (Fin.castSucc d) (fun f => f.take r) := rfl
@[simp] theorem State.report_settings (s : State) (d : DriveNo) (r : Report) : (s.report d r).settings = s.settings := rfl
@[simp] theorem State.report_classes (s : State) (d : DriveNo) (r : Report) : (s.report d r).classes = s.classes := rfl
@[simp] theorem State.report_layoutVersion (s : State) (d : DriveNo) (r : Report) : (s.report d r).layoutVersion = s.layoutVersion := rfl

/-! ### reportGlobal -/

@[simp] theorem State.reportGlobal_pending (s : State) (r : Report) : (s.reportGlobal r).pending = s.pending := rfl
@[simp] theorem State.reportGlobal_now (s : State) (r : Report) : (s.reportGlobal r).now = s.now := rfl
@[simp] theorem State.reportGlobal_pins (s : State) (r : Report) : (s.reportGlobal r).pins = s.pins := rfl
@[simp] theorem State.reportGlobal_doors (s : State) (r : Report) : (s.reportGlobal r).doors = s.doors := rfl
@[simp] theorem State.reportGlobal_answer (s : State) (r : Report) : (s.reportGlobal r).answer = s.answer := rfl
@[simp] theorem State.reportGlobal_straps (s : State) (r : Report) : (s.reportGlobal r).straps = s.straps := rfl
@[simp] theorem State.reportGlobal_mem (s : State) (r : Report) : (s.reportGlobal r).mem = s.mem := rfl
@[simp] theorem State.reportGlobal_phase (s : State) (r : Report) : (s.reportGlobal r).phase = s.phase := rfl
@[simp] theorem State.reportGlobal_waiters (s : State) (r : Report) : (s.reportGlobal r).waiters = s.waiters := rfl
@[simp] theorem State.reportGlobal_geometry (s : State) (r : Report) : (s.reportGlobal r).geometry = s.geometry := rfl
@[simp] theorem State.reportGlobal_slots (s : State) (r : Report) : (s.reportGlobal r).slots = s.slots := rfl
@[simp] theorem State.reportGlobal_freeList (s : State) (r : Report) : (s.reportGlobal r).freeList = s.freeList := rfl
@[simp] theorem State.reportGlobal_recency (s : State) (r : Report) : (s.reportGlobal r).recency = s.recency := rfl
@[simp] theorem State.reportGlobal_drives (s : State) (r : Report) : (s.reportGlobal r).drives = s.drives := rfl
@[simp] theorem State.reportGlobal_pass (s : State) (r : Report) : (s.reportGlobal r).pass = s.pass := rfl
@[simp] theorem State.reportGlobal_probeBuffer (s : State) (r : Report) : (s.reportGlobal r).probeBuffer = s.probeBuffer := rfl
@[simp] theorem State.reportGlobal_fieldOut (s : State) (r : Report) : (s.reportGlobal r).fieldOut = s.fieldOut := rfl
@[simp] theorem State.reportGlobal_records (s : State) (r : Report) : (s.reportGlobal r).records = s.records := rfl
@[simp] theorem State.reportGlobal_faults (s : State) (r : Report) : (s.reportGlobal r).faults = upd s.faults 4 (fun f => f.take r) := rfl
@[simp] theorem State.reportGlobal_settings (s : State) (r : Report) : (s.reportGlobal r).settings = s.settings := rfl
@[simp] theorem State.reportGlobal_classes (s : State) (r : Report) : (s.reportGlobal r).classes = s.classes := rfl
@[simp] theorem State.reportGlobal_layoutVersion (s : State) (r : Report) : (s.reportGlobal r).layoutVersion = s.layoutVersion := rfl

/-! ### setOutcome -/

@[simp] theorem State.setOutcome_pending (s : State) (d : DriveNo) (o : ReqOutcome) : (s.setOutcome d o).pending = s.pending := rfl
@[simp] theorem State.setOutcome_now (s : State) (d : DriveNo) (o : ReqOutcome) : (s.setOutcome d o).now = s.now := rfl
@[simp] theorem State.setOutcome_pins (s : State) (d : DriveNo) (o : ReqOutcome) : (s.setOutcome d o).pins = s.pins := rfl
@[simp] theorem State.setOutcome_doors (s : State) (d : DriveNo) (o : ReqOutcome) : (s.setOutcome d o).doors = s.doors := rfl
@[simp] theorem State.setOutcome_answer (s : State) (d : DriveNo) (o : ReqOutcome) : (s.setOutcome d o).answer = s.answer := rfl
@[simp] theorem State.setOutcome_straps (s : State) (d : DriveNo) (o : ReqOutcome) : (s.setOutcome d o).straps = s.straps := rfl
@[simp] theorem State.setOutcome_mem (s : State) (d : DriveNo) (o : ReqOutcome) : (s.setOutcome d o).mem = s.mem := rfl
@[simp] theorem State.setOutcome_phase (s : State) (d : DriveNo) (o : ReqOutcome) : (s.setOutcome d o).phase = s.phase := rfl
@[simp] theorem State.setOutcome_waiters (s : State) (d : DriveNo) (o : ReqOutcome) : (s.setOutcome d o).waiters = s.waiters := rfl
@[simp] theorem State.setOutcome_geometry (s : State) (d : DriveNo) (o : ReqOutcome) : (s.setOutcome d o).geometry = s.geometry := rfl
@[simp] theorem State.setOutcome_slots (s : State) (d : DriveNo) (o : ReqOutcome) : (s.setOutcome d o).slots = s.slots := rfl
@[simp] theorem State.setOutcome_freeList (s : State) (d : DriveNo) (o : ReqOutcome) : (s.setOutcome d o).freeList = s.freeList := rfl
@[simp] theorem State.setOutcome_recency (s : State) (d : DriveNo) (o : ReqOutcome) : (s.setOutcome d o).recency = s.recency := rfl
@[simp] theorem State.setOutcome_drives (s : State) (d : DriveNo) (o : ReqOutcome) : (s.setOutcome d o).drives = s.drives := rfl
@[simp] theorem State.setOutcome_pass (s : State) (d : DriveNo) (o : ReqOutcome) : (s.setOutcome d o).pass = s.pass := rfl
@[simp] theorem State.setOutcome_probeBuffer (s : State) (d : DriveNo) (o : ReqOutcome) : (s.setOutcome d o).probeBuffer = s.probeBuffer := rfl
@[simp] theorem State.setOutcome_fieldOut (s : State) (d : DriveNo) (o : ReqOutcome) : (s.setOutcome d o).fieldOut = s.fieldOut := rfl
@[simp] theorem State.setOutcome_records (s : State) (d : DriveNo) (o : ReqOutcome) : (s.setOutcome d o).records = upd s.records d (fun m => { m with outcome := o }) := rfl
@[simp] theorem State.setOutcome_faults (s : State) (d : DriveNo) (o : ReqOutcome) : (s.setOutcome d o).faults = s.faults := rfl
@[simp] theorem State.setOutcome_settings (s : State) (d : DriveNo) (o : ReqOutcome) : (s.setOutcome d o).settings = s.settings := rfl
@[simp] theorem State.setOutcome_classes (s : State) (d : DriveNo) (o : ReqOutcome) : (s.setOutcome d o).classes = s.classes := rfl
@[simp] theorem State.setOutcome_layoutVersion (s : State) (d : DriveNo) (o : ReqOutcome) : (s.setOutcome d o).layoutVersion = s.layoutVersion := rfl

/-! ### touch -/

@[simp] theorem State.touch_pending (s : State) (k : Nat) : (s.touch k).pending = s.pending := rfl
@[simp] theorem State.touch_now (s : State) (k : Nat) : (s.touch k).now = s.now := rfl
@[simp] theorem State.touch_pins (s : State) (k : Nat) : (s.touch k).pins = s.pins := rfl
@[simp] theorem State.touch_doors (s : State) (k : Nat) : (s.touch k).doors = s.doors := rfl
@[simp] theorem State.touch_answer (s : State) (k : Nat) : (s.touch k).answer = s.answer := rfl
@[simp] theorem State.touch_straps (s : State) (k : Nat) : (s.touch k).straps = s.straps := rfl
@[simp] theorem State.touch_mem (s : State) (k : Nat) : (s.touch k).mem = s.mem := rfl
@[simp] theorem State.touch_phase (s : State) (k : Nat) : (s.touch k).phase = s.phase := rfl
@[simp] theorem State.touch_waiters (s : State) (k : Nat) : (s.touch k).waiters = s.waiters := rfl
@[simp] theorem State.touch_geometry (s : State) (k : Nat) : (s.touch k).geometry = s.geometry := rfl
@[simp] theorem State.touch_slots (s : State) (k : Nat) : (s.touch k).slots = s.slots := rfl
@[simp] theorem State.touch_freeList (s : State) (k : Nat) : (s.touch k).freeList = s.freeList := rfl
@[simp] theorem State.touch_recency (s : State) (k : Nat) : (s.touch k).recency = k :: s.recency.erase k := rfl
@[simp] theorem State.touch_drives (s : State) (k : Nat) : (s.touch k).drives = s.drives := rfl
@[simp] theorem State.touch_pass (s : State) (k : Nat) : (s.touch k).pass = s.pass := rfl
@[simp] theorem State.touch_probeBuffer (s : State) (k : Nat) : (s.touch k).probeBuffer = s.probeBuffer := rfl
@[simp] theorem State.touch_fieldOut (s : State) (k : Nat) : (s.touch k).fieldOut = s.fieldOut := rfl
@[simp] theorem State.touch_records (s : State) (k : Nat) : (s.touch k).records = s.records := rfl
@[simp] theorem State.touch_faults (s : State) (k : Nat) : (s.touch k).faults = s.faults := rfl
@[simp] theorem State.touch_settings (s : State) (k : Nat) : (s.touch k).settings = s.settings := rfl
@[simp] theorem State.touch_classes (s : State) (k : Nat) : (s.touch k).classes = s.classes := rfl
@[simp] theorem State.touch_layoutVersion (s : State) (k : Nat) : (s.touch k).layoutVersion = s.layoutVersion := rfl

/-! ### updOp -/

@[simp] theorem State.updOp_pending (s : State) (d : DriveNo) (slot : Option Nat) (f : Op → Op) : (s.updOp d slot f).pending = s.pending := rfl
@[simp] theorem State.updOp_now (s : State) (d : DriveNo) (slot : Option Nat) (f : Op → Op) : (s.updOp d slot f).now = s.now := rfl
@[simp] theorem State.updOp_pins (s : State) (d : DriveNo) (slot : Option Nat) (f : Op → Op) : (s.updOp d slot f).pins = s.pins := rfl
@[simp] theorem State.updOp_doors (s : State) (d : DriveNo) (slot : Option Nat) (f : Op → Op) : (s.updOp d slot f).doors = s.doors := rfl
@[simp] theorem State.updOp_answer (s : State) (d : DriveNo) (slot : Option Nat) (f : Op → Op) : (s.updOp d slot f).answer = s.answer := rfl
@[simp] theorem State.updOp_straps (s : State) (d : DriveNo) (slot : Option Nat) (f : Op → Op) : (s.updOp d slot f).straps = s.straps := rfl
@[simp] theorem State.updOp_mem (s : State) (d : DriveNo) (slot : Option Nat) (f : Op → Op) : (s.updOp d slot f).mem = s.mem := rfl
@[simp] theorem State.updOp_phase (s : State) (d : DriveNo) (slot : Option Nat) (f : Op → Op) : (s.updOp d slot f).phase = s.phase := rfl
@[simp] theorem State.updOp_waiters (s : State) (d : DriveNo) (slot : Option Nat) (f : Op → Op) : (s.updOp d slot f).waiters = s.waiters := rfl
@[simp] theorem State.updOp_geometry (s : State) (d : DriveNo) (slot : Option Nat) (f : Op → Op) : (s.updOp d slot f).geometry = s.geometry := rfl
@[simp] theorem State.updOp_slots (s : State) (d : DriveNo) (slot : Option Nat) (f : Op → Op) : (s.updOp d slot f).slots = s.slots := rfl
@[simp] theorem State.updOp_freeList (s : State) (d : DriveNo) (slot : Option Nat) (f : Op → Op) : (s.updOp d slot f).freeList = s.freeList := rfl
@[simp] theorem State.updOp_recency (s : State) (d : DriveNo) (slot : Option Nat) (f : Op → Op) : (s.updOp d slot f).recency = s.recency := rfl
@[simp] theorem State.updOp_pass (s : State) (d : DriveNo) (slot : Option Nat) (f : Op → Op) : (s.updOp d slot f).pass = s.pass := rfl
@[simp] theorem State.updOp_probeBuffer (s : State) (d : DriveNo) (slot : Option Nat) (f : Op → Op) : (s.updOp d slot f).probeBuffer = s.probeBuffer := rfl
@[simp] theorem State.updOp_fieldOut (s : State) (d : DriveNo) (slot : Option Nat) (f : Op → Op) : (s.updOp d slot f).fieldOut = s.fieldOut := rfl
@[simp] theorem State.updOp_records (s : State) (d : DriveNo) (slot : Option Nat) (f : Op → Op) : (s.updOp d slot f).records = s.records := rfl
@[simp] theorem State.updOp_faults (s : State) (d : DriveNo) (slot : Option Nat) (f : Op → Op) : (s.updOp d slot f).faults = s.faults := rfl
@[simp] theorem State.updOp_settings (s : State) (d : DriveNo) (slot : Option Nat) (f : Op → Op) : (s.updOp d slot f).settings = s.settings := rfl
@[simp] theorem State.updOp_classes (s : State) (d : DriveNo) (slot : Option Nat) (f : Op → Op) : (s.updOp d slot f).classes = s.classes := rfl
@[simp] theorem State.updOp_layoutVersion (s : State) (d : DriveNo) (slot : Option Nat) (f : Op → Op) : (s.updOp d slot f).layoutVersion = s.layoutVersion := rfl

end Sys2Proof.Machine
end

