-- ==== Sys2Proof/Laws/Keeps.lean ====
section
/-! SUPPORT. What the part's own work never touches: a relation between the state before and after, and, for each shared
operation, that it keeps it. -/

namespace Sys2Proof.Machine

/-- A Mount Record's host fields but for the guard lock, which becomes OPEN when the volume becomes UNMOUNTED (R126). -/
def HostFields.unlocked (h : HostFields) : HostFields := { h with guardLock := false }

/-- The part's own work keeps the queue of commands, the straps, the Settings, the classes, the layout version,
the host-owned fields but for the guard lock, the number of slots, and every byte of DRAM below the slot pool; it keeps the
canonical form of DRAM; and it changes the phase only at the end of a drain. -/
structure Keeps (s t : State) : Prop where
  pending : t.pending = s.pending
  straps : t.straps = s.straps
  settings : t.settings = s.settings
  classes : t.classes = s.classes
  layout : t.layoutVersion = s.layoutVersion
  slots : t.slots.length = s.slots.length
  host : ∀ d : DriveNo, t.records[d].host.unlocked = s.records[d].host.unlocked
  wf : Memory.wf s.mem → Memory.wf t.mem
  low : ∀ a, a < s.straps.poolBase → Memory.read t.mem a = Memory.read s.mem a
  phase : t.phase = s.phase ∨ (s.phase = .draining ∧ t.phase = .rewriting 2)

namespace Keeps

variable {s t u : State}

theorem refl (s : State) : Keeps s s :=
  ⟨rfl, rfl, rfl, rfl, rfl, rfl, fun _ => rfl, id, fun _ _ => rfl, .inl rfl⟩

theorem trans (h : Keeps s t) (g : Keeps t u) : Keeps s u where
  pending := g.pending.trans h.pending
  straps := g.straps.trans h.straps
  settings := g.settings.trans h.settings
  classes := g.classes.trans h.classes
  layout := g.layout.trans h.layout
  slots := g.slots.trans h.slots
  host := fun d => (g.host d).trans (h.host d)
  wf := fun w => g.wf (h.wf w)
  low := fun a ha => (g.low a (by rw [h.straps]; exact ha)).trans (h.low a ha)
  phase := by
    rcases h.phase with hp | ⟨hp, hq⟩ <;> rcases g.phase with gp | ⟨gp, gq⟩
    · exact .inl (gp.trans hp)
    · exact .inr ⟨hp.symm.trans gp, gq⟩
    · exact .inr ⟨hp, gp.trans hq⟩
    · rw [hq] at gp; exact absurd gp (by simp)

/-- A choice between two states that keep it keeps it. -/
theorem ite {c : Prop} [Decidable c] (h : Keeps s t) (g : Keeps s u) : Keeps s (if c then t else u) := by
  split
  · exact h
  · exact g

/-- A fold of operations that keep it keeps it. -/
theorem foldl {α : Type} {f : State → α → State} (hf : ∀ t x, Keeps t (f t x)) (xs : List α) (h : Keeps s t) :
    Keeps s (xs.foldl f t) := by
  induction xs generalizing t with
  | nil => exact h
  | cons x xs ih => exact ih (h.trans (hf t x))

/-! ### Updates of one table -/

theorem updDrive (h : Keeps s t) (d : DriveNo) (f : Drive → Drive) : Keeps s (t.updDrive d f) :=
  ⟨h.1, h.2, h.3, h.4, h.5, h.6, h.7, h.8, h.9, h.10⟩

theorem updSlot (h : Keeps s t) (k : Nat) (f : Slot → Slot) : Keeps s (t.updSlot k f) :=
  ⟨h.1, h.2, h.3, h.4, h.5, by simpa using h.6, h.7, h.8, h.9, h.10⟩

theorem updRecord (h : Keeps s t) (d : DriveNo) {f : MountRecord → MountRecord}
    (hf : ∀ m : MountRecord, (f m).host.unlocked = m.host.unlocked) : Keeps s (t.updRecord d f) := by
  refine ⟨h.1, h.2, h.3, h.4, h.5, h.6, fun e => ?_, h.8, h.9, h.10⟩
  rw [← h.host e, State.updRecord_records, upd_get]
  split
  · rename_i hd; subst hd; exact hf _
  · rfl

theorem setWaiter (h : Keeps s t) (r : Requester) (e : WaiterEntry) : Keeps s (t.setWaiter r e) :=
  ⟨h.1, h.2, h.3, h.4, h.5, h.6, h.7, h.8, h.9, h.10⟩

theorem waiters (h : Keeps s t) (w : Vector WaiterEntry 8) : Keeps s { t with waiters := w } :=
  ⟨h.1, h.2, h.3, h.4, h.5, h.6, h.7, h.8, h.9, h.10⟩

theorem drives (h : Keeps s t) (w : Vector Drive 4) : Keeps s { t with drives := w } :=
  ⟨h.1, h.2, h.3, h.4, h.5, h.6, h.7, h.8, h.9, h.10⟩

theorem pass (h : Keeps s t) (p : Option Pass) : Keeps s { t with pass := p } :=
  ⟨h.1, h.2, h.3, h.4, h.5, h.6, h.7, h.8, h.9, h.10⟩

theorem geometry (h : Keeps s t) (g : Vector (Option Geometry) 4) : Keeps s { t with geometry := g } :=
  ⟨h.1, h.2, h.3, h.4, h.5, h.6, h.7, h.8, h.9, h.10⟩

theorem lists (h : Keeps s t) (f r : List Nat) : Keeps s { t with freeList := f, recency := r } :=
  ⟨h.1, h.2, h.3, h.4, h.5, h.6, h.7, h.8, h.9, h.10⟩

theorem advance (h : Keeps s t) (ms : Nat) : Keeps s (t.advance ms) :=
  ⟨h.1, h.2, h.3, h.4, h.5, h.6, h.7, h.8, h.9, h.10⟩

theorem sense (h : Keeps s t) (p : Pins) : Keeps s (t.sense p) :=
  ⟨h.1, h.2, h.3, h.4, h.5, h.6, h.7, h.8, h.9, h.10⟩

theorem answered (h : Keeps s t) (a : Answer) : Keeps s (t.answered a) :=
  ⟨h.1, h.2, h.3, h.4, h.5, h.6, h.7, h.8, h.9, h.10⟩

theorem report (h : Keeps s t) (d : DriveNo) (r : Report) : Keeps s (t.report d r) :=
  ⟨h.1, h.2, h.3, h.4, h.5, h.6, h.7, h.8, h.9, h.10⟩

theorem reportGlobal (h : Keeps s t) (r : Report) : Keeps s (t.reportGlobal r) :=
  ⟨h.1, h.2, h.3, h.4, h.5, h.6, h.7, h.8, h.9, h.10⟩

theorem driveFault (h : Keeps s t) (d : DriveNo) (c : FaultCode) (cyl head : Nat) (id : Option Nat) :
    Keeps s (t.driveFault d c cyl head id) := h.report ..

theorem touch (h : Keeps s t) (k : Nat) : Keeps s (t.touch k) :=
  ⟨h.1, h.2, h.3, h.4, h.5, h.6, h.7, h.8, h.9, h.10⟩

theorem setOutcome (h : Keeps s t) (d : DriveNo) (o : ReqOutcome) : Keeps s (t.setOutcome d o) :=
  h.updRecord d (fun _ => rfl)

theorem endRequest (h : Keeps s t) (d : DriveNo) (v : VolumeState) (o : ReqOutcome) : Keeps s (t.endRequest d v o) :=
  h.updRecord d (fun _ => rfl)

theorem unmount (h : Keeps s t) (d : DriveNo) : Keeps s (t.unmount d) :=
  Keeps.geometry (h.updRecord d (f := fun m => { m with
    state := .unmounted, progress := none, flushSet := [], flushFailed := false, pendingDiscard := false,
    host := { m.host with guardLock := false } }) (fun _ => rfl)) _

/-! ### Slots and the pool -/

/-- A store into the slot pool. -/
theorem store (h : Keeps s t) {a : Nat} (ha : t.straps.poolBase ≤ a) (bs : List Byte) :
    Keeps s { t with mem := Memory.store t.mem a bs } := by
  refine ⟨h.1, h.2, h.3, h.4, h.5, h.6, h.7, fun w => Memory.wf_store (h.8 w) _ _, fun x hx => ?_, h.10⟩
  rw [← h.low x hx]
  have := h.straps
  exact Memory.read_store_of_not_mem _ _ _ _ (.inl (by rw [this] at ha; omega))

/-- A write of lanes into the slot pool. -/
theorem storeLanes (h : Keeps s t) {a : Nat} (ha : t.straps.poolBase ≤ a) (l : Lanes) :
    Keeps s { t with mem := Memory.storeLanes t.mem a l } := by
  refine ⟨h.1, h.2, h.3, h.4, h.5, h.6, h.7, fun w => Memory.wf_storeLanes (h.8 w) _ _, fun x hx => ?_, h.10⟩
  rw [← h.low x hx]
  have := h.straps
  rw [this] at ha
  show Memory.read (Memory.storeLanes t.mem a l) x = _
  rw [Memory.read_storeLanes, if_neg (by omega), if_neg (by omega)]

theorem slotAddr_le (t : State) (k w : Nat) : t.straps.poolBase ≤ t.slotAddr k w := by
  unfold State.slotAddr; omega

theorem fillAbsent (h : Keeps s t) (k size : Nat) (q : Nat → Bool) : Keeps s (t.fillAbsent k size q) := by
  unfold State.fillAbsent
  have key : ∀ (xs : List Nat) (m : List Host.Cell), Keeps s { t with mem := m } →
      Keeps s { t with mem := xs.foldl (fun m p => if ((t.slot k).sector p).state = .absent ∧ q p then
        Memory.store m (t.slotAddr k (p * size)) (List.replicate size 0xFF#8) else m) m } := by
    intro xs
    induction xs with
    | nil => intro m hm; exact hm
    | cons x xs ih =>
      intro m hm
      refine ih _ ?_
      dsimp only
      split
      · exact hm.store (slotAddr_le t k _) _
      · exact hm
  exact key _ t.mem h

theorem freeSlot (h : Keeps s t) (k : Nat) : Keeps s (t.freeSlot k) := (h.updSlot _ _).lists _ _

theorem freeSlots (h : Keeps s t) (ks : List Nat) : Keeps s (t.freeSlots ks) :=
  foldl (fun u k => (refl u).freeSlot k) ks h

theorem strandSlot (h : Keeps s t) (k : Nat) : Keeps s (t.strandSlot k) := (h.fillAbsent _ _ _).updSlot _ _

theorem updOp (h : Keeps s t) (d : DriveNo) (k : Option Nat) (f : Op → Op) : Keeps s (t.updOp d k f) := h.updDrive _ _

theorem removeOp (h : Keeps s t) (d : DriveNo) (k : Option Nat) : Keeps s (t.removeOp d k) := h.updDrive _ _

theorem failDriveWaiters (h : Keeps s t) (d : DriveNo) (c : WaitFailure) : Keeps s (t.failDriveWaiters d c) := h.waiters _

theorem failFillWaiters (h : Keeps s t) (key : Key) (f : DriveFailure) : Keeps s (t.failFillWaiters key f) := h.waiters _

/-! ### Asking for drive work -/

theorem queueOp (h : Keeps s t) (d : DriveNo) (w : Work) (r : Option Reason) (c e : Nat) (cls : OpClass) :
    Keeps s (t.queueOp d w r c e cls) :=
  h.updDrive _ _

theorem requestFill (h : Keeps s t) (k : Nat) (key : Key) (cls : OpClass) : Keeps s (t.requestFill k key cls) := by
  unfold State.requestFill; split
  · exact h.updOp _ _ _
  · exact h.queueOp _ _ _ _ _ _

theorem requestWrite (h : Keeps s t) (k : Nat) (r : Reason) (cls : OpClass) : Keeps s (t.requestWrite k r cls) := by
  unfold State.requestWrite; split
  · split
    · exact h.updOp _ _ _
    · exact h.queueOp _ _ _ _ _ _
  · exact h

theorem requestProbe (h : Keeps s t) (d : DriveNo) (cls : OpClass) : Keeps s (t.requestProbe d cls) := by
  unfold State.requestProbe; split
  · exact h.updOp _ _ _
  · exact h.queueOp _ _ _ _ _ _

theorem requestWriteFor (h : Keeps s t) (k : Nat) (r : Reason) (cls : OpClass) : Keeps s (t.requestWriteFor k r cls) := by
  unfold State.requestWriteFor
  dsimp only
  repeat' split
  all_goals first
    | exact ((h.updSlot _ _).requestWrite _ _ _).updSlot _ _
    | exact (h.updSlot _ _).requestWrite _ _ _

theorem ageCheck (h : Keeps s t) (k : Nat) : Keeps s (t.ageCheck k) := by
  unfold State.ageCheck; split
  · split
    · exact h.requestWrite _ _ _
    · exact h
  · exact h

theorem assign (h : Keeps s t) (k : Nat) (key : Key) (cls : OpClass) : Keeps s (t.assign k key cls) :=
  ((h.updSlot _ _).lists _ _).requestFill _ _ _

theorem grantSlot (h : Keeps s t) (k : Nat) (key : Key) (cls : OpClass) : Keeps s (t.grantSlot k key cls) :=
  (h.assign _ _ _).waiters _

theorem grants (skip : Option DriveNo) (xs : List (Requester × Waiter)) (h : Keeps s t) :
    Keeps s (State.grants skip xs t) := by
  induction xs generalizing t with
  | nil => exact h
  | cons x xs ih =>
    obtain ⟨r, w⟩ := x
    unfold State.grants
    split
    · exact ih h
    · split
      · exact ih (h.grantSlot _ _ _)
      · split
        · exact h.requestWrite _ _ _
        · exact h

theorem releaseEvent (h : Keeps s t) (skip : Option DriveNo) : Keeps s (t.releaseEvent skip) := h.grants _ _

theorem released (h : Keeps s t) (freed : List Nat) (skip : Option DriveNo) : Keeps s (t.released freed skip) :=
  ite h (h.releaseEvent skip)

theorem evictionRepeat (h : Keeps s t) : Keeps s t.evictionRepeat := by
  unfold State.evictionRepeat; split
  · split
    · exact h.requestWrite _ _ _
    · exact h
  · exact h

end Keeps

end Sys2Proof.Machine
end

