-- ==== Sys2Proof/Laws/ControlBlock.lean ====
section
/-! SUPPORT. The part's stores into the Control Block: what they leave, what a read of the block gives after an event. -/

namespace Sys2Proof.Machine

/-- The state with other DRAM. -/
def State.withMem (s : State) (m : List Host.Cell) : State := { s with mem := m }

theorem State.recordByte_withMem (s : State) (m : List Host.Cell) (d : DriveNo) (o : Nat) :
    (s.withMem m).recordByte d o = s.recordByte d o := rfl

theorem State.faultByte_withMem (s : State) (m : List Host.Cell) (i : Fin 5) (o : Nat) :
    (s.withMem m).faultByte i o = s.faultByte i o := rfl

theorem State.headerByte_withMem (s : State) (m : List Host.Cell) (o : Nat) :
    (s.withMem m).headerByte o = s.headerByte o := rfl

@[simp] theorem State.cbByte_withMem (s : State) (m : List Host.Cell) (o : Nat) : (s.withMem m).cbByte o = s.cbByte o := by
  unfold State.cbByte
  rw [State.recordByte_withMem, State.faultByte_withMem, State.headerByte_withMem]
  rfl

/-- What an event has changed does not depend on DRAM. -/
@[simp] theorem State.cbChanged_withMem (old s : State) (m : List Host.Cell) (o : Nat) :
    old.cbChanged (s.withMem m) o = old.cbChanged s o := by
  unfold State.cbChanged
  rw [State.cbByte_withMem, State.cbByte_withMem]
  rfl

@[simp] theorem State.withMem_mem (s : State) (m : List Host.Cell) : (s.withMem m).mem = m := rfl

@[simp] theorem State.rewriteCopies_mem (s : State) : s.rewriteCopies.mem = s.mem := rfl

@[simp] theorem State.withMem_self (s : State) : s.withMem s.mem = s := rfl

/-- What the part's copies give depends on these fields of the state alone; of a drive, on its media state and its head
position. -/
theorem State.cbByte_congr_drives {s t : State} (h0 : t.layoutVersion = s.layoutVersion) (h1 : t.straps = s.straps)
    (h2 : t.settings = s.settings) (h3 : t.classes = s.classes) (h4 : t.records = s.records)
    (h5 : ∀ d : DriveNo, t.drives[d].media = s.drives[d].media ∧ t.drives[d].head = s.drives[d].head)
    (h6 : t.slots = s.slots) (h7 : t.faults = s.faults) (o : Nat) : t.cbByte o = s.cbByte o := by
  have hr : ∀ d x, t.recordByte d x = s.recordByte d x := by
    intro d x; unfold State.recordByte State.residentCount State.dirtyCount; dsimp only; rw [h4, h6, (h5 d).1, (h5 d).2]
  have hf : ∀ i x, t.faultByte i x = s.faultByte i x := by
    intro i x; unfold State.faultByte; rw [h7]
  have hh : ∀ x, t.headerByte x = s.headerByte x := by
    intro x; unfold State.headerByte; rw [h0, h1]
  unfold State.cbByte
  rw [hr, hf, hh, h2, h3]

theorem State.cbByte_congr {s t : State} (h0 : t.layoutVersion = s.layoutVersion) (h1 : t.straps = s.straps)
    (h2 : t.settings = s.settings) (h3 : t.classes = s.classes) (h4 : t.records = s.records) (h5 : t.drives = s.drives)
    (h6 : t.slots = s.slots) (h7 : t.faults = s.faults) (o : Nat) : t.cbByte o = s.cbByte o :=
  State.cbByte_congr_drives h0 h1 h2 h3 h4 (fun d => by rw [h5]; exact ⟨rfl, rfl⟩) h6 h7 o

/-- The part's byte put into DRAM. -/
def State.putCb (s : State) (m : List Host.Cell) (o : Nat) : List Host.Cell :=
  match s.cbByte o with
  | some b => Memory.store m (s.straps.cbBase + o) [b]
  | none => m

theorem State.storeCb_eq (s : State) (m : List Host.Cell) (o : Nat) :
    (s.withMem m).storeCb o = s.withMem (s.putCb m o) := by
  unfold State.storeCb State.putCb
  rw [State.cbByte_withMem]
  cases s.cbByte o <;> rfl

/-- A list of offsets stored, but for those that a condition passes over. -/
def State.putCbs (s : State) (c : Nat → Prop) [DecidablePred c] (os : List Nat) (m : List Host.Cell) : List Host.Cell :=
  os.foldl (fun m o => if c o then m else s.putCb m o) m

theorem State.putCb_wf (s : State) {m : List Host.Cell} (h : Memory.wf m) (o : Nat) : Memory.wf (s.putCb m o) := by
  unfold State.putCb
  split
  · exact Memory.wf_store h _ _
  · exact h

theorem State.putCbs_wf (s : State) (c : Nat → Prop) [DecidablePred c] (os : List Nat) {m : List Host.Cell}
    (h : Memory.wf m) : Memory.wf (s.putCbs c os m) := by
  unfold State.putCbs
  induction os generalizing m with
  | nil => exact h
  | cons o os ih =>
    refine ih ?_
    dsimp only
    split
    · exact h
    · exact s.putCb_wf h o

theorem State.read_putCb (s : State) (m : List Host.Cell) (o x : Nat) :
    Memory.read (s.putCb m o) x =
      if x = s.straps.cbBase + o then (s.cbByte o).getD (Memory.read m x) else Memory.read m x := by
  unfold State.putCb
  cases h : s.cbByte o
  · simp
  · simp only [Memory.read_store_byte, Option.getD_some]

/-- Outside the offsets stored, DRAM is as it was. -/
theorem State.read_putCbs_outside (s : State) (c : Nat → Prop) [DecidablePred c] (os : List Nat) (m : List Host.Cell)
    (x : Nat) (h : ∀ o ∈ os, x ≠ s.straps.cbBase + o) : Memory.read (s.putCbs c os m) x = Memory.read m x := by
  unfold State.putCbs
  induction os generalizing m with
  | nil => rfl
  | cons o os ih =>
    rw [List.foldl_cons, ih _ (fun p hp => h p (List.mem_cons_of_mem _ hp))]
    split
    · rfl
    · rw [State.read_putCb, if_neg (h o (List.mem_cons_self ..))]

/-- What a read of the block gives after the stores. -/
theorem State.read_putCbs (s : State) (c : Nat → Prop) [DecidablePred c] (os : List Nat) (m : List Host.Cell) (o : Nat) :
    Memory.read (s.putCbs c os m) (s.straps.cbBase + o) =
      if o ∈ os ∧ ¬ c o then (s.cbByte o).getD (Memory.read m (s.straps.cbBase + o))
      else Memory.read m (s.straps.cbBase + o) := by
  unfold State.putCbs
  induction os generalizing m with
  | nil => simp
  | cons p os ih =>
    rw [List.foldl_cons, ih]
    by_cases hp : o = p
    · subst hp
      by_cases hc : c o
      · simp [hc]
      · simp only [hc, not_false_eq_true, if_false, State.read_putCb, List.mem_cons, true_or, and_self, if_true]
        cases s.cbByte o <;> simp
    · have hne : s.straps.cbBase + o ≠ s.straps.cbBase + p := by omega
      have hr : Memory.read (if c p then m else s.putCb m p) (s.straps.cbBase + o) = Memory.read m (s.straps.cbBase + o) := by
        split
        · rfl
        · rw [State.read_putCb, if_neg hne]
      rw [hr]
      simp only [List.mem_cons, hp, false_or]

/-- Every offset with a field lies below the end of the fields. -/
theorem State.cbByte_of_le (s : State) {o : Nat} (h : cbEnd ≤ o) : s.cbByte o = none := by
  unfold cbEnd at h
  unfold State.cbByte
  repeat' split
  all_goals first
    | omega
    | rfl

/-- The stores of the words and records an event has changed. -/
theorem State.storeChanges_eq (old s : State) :
    old.storeChanges s = s.withMem (s.putCbs (fun o => ¬ old.cbChanged s o = true) (List.range cbEnd) s.mem) := by
  unfold State.storeChanges State.putCbs
  generalize List.range cbEnd = os
  have key : ∀ m : List Host.Cell,
      os.foldl (fun t o => if old.cbChanged s o then t.storeCb o else t) (s.withMem m) =
        s.withMem (os.foldl (fun m o => if ¬ old.cbChanged s o = true then m else s.putCb m o) m) := by
    induction os with
    | nil => intro m; rfl
    | cons o os ih =>
      intro m
      rw [List.foldl_cons, List.foldl_cons, ← ih]
      congr 1
      rw [ite_not]
      split
      · exact s.storeCb_eq m o
      · rfl
  exact key s.mem

/-- What an event leaves unchanged, word by word and record by record, it leaves unchanged byte by byte. -/
theorem State.cbByte_of_unchanged {old s : State} {o : Nat} (h : ¬ old.cbChanged s o = true) : old.cbByte o = s.cbByte o := by
  unfold State.cbChanged at h
  split at h
  · rename_i ho
    have hf : old.faults[Fin.ofNat 5 ((o - 0x140) / 0x10)] = s.faults[Fin.ofNat 5 ((o - 0x140) / 0x10)] := by simpa using h
    by_cases hb : o < 0x190
    · have hb' : ∀ u : State, u.cbByte o = u.faultByte (Fin.ofNat 5 ((o - 0x140) / 0x10)) ((o - 0x140) % 0x10) := by
        intro u
        unfold State.cbByte
        iterate 7 rw [if_neg (by omega)]
        rw [if_pos hb]
      rw [hb', hb']
      unfold State.faultByte
      rw [hf]
    · rw [State.cbByte_of_le old (by unfold cbEnd; omega), State.cbByte_of_le s (by unfold cbEnd; omega)]
  · have h2 : old.cbByte (o / 2 * 2) = s.cbByte (o / 2 * 2) ∧ old.cbByte (o / 2 * 2 + 1) = s.cbByte (o / 2 * 2 + 1) := by
      simpa using h
    rcases Nat.mod_two_eq_zero_or_one o with e | e
    · rw [show o = o / 2 * 2 by omega]; exact h2.1
    · rw [show o = o / 2 * 2 + 1 by omega]; exact h2.2

/-- Copies that are the same, and the same Fault Records, are unchanged. -/
theorem State.unchanged_of_same {old s : State} (h : ∀ o, old.cbByte o = s.cbByte o) (hf : old.faults = s.faults) (o : Nat) :
    ¬ old.cbChanged s o = true := by
  unfold State.cbChanged
  split
  · rw [hf]; simp
  · rw [h, h]; simp

/-- The stores of a run of offsets. -/
theorem State.storeCbRange_eq (s : State) (a b : Nat) :
    s.storeCbRange a b = s.withMem (s.putCbs (fun _ => False) ((List.range (b - a)).map (a + ·)) s.mem) := by
  unfold State.storeCbRange State.putCbs
  generalize List.range (b - a) = os
  have key : ∀ m : List Host.Cell,
      os.foldl (fun t i => t.storeCb (a + i)) (s.withMem m) =
        s.withMem ((os.map (a + ·)).foldl (fun m o => if False then m else s.putCb m o) m) := by
    induction os with
    | nil => intro m; rfl
    | cons o os ih =>
      intro m
      rw [List.foldl_cons, List.map_cons, List.foldl_cons, ← ih, if_neg (fun h => h)]
      congr 1
      exact s.storeCb_eq m _
  exact key s.mem

/-! ### The end of an event -/

/-- An event that does not end the drain: the changed fields are stored, nothing else changes. -/
theorem State.finish_eq {old s : State} (h : drainEnded old s = false) : old.finish s = old.storeChanges s := by
  unfold State.finish; rw [h]; rfl

theorem drainEnded_of_phase {old s : State} (h : s.phase = old.phase) : drainEnded old s = false := by
  unfold drainEnded; rw [h]
  cases old.phase <;> rfl

/-- The end of an event that keeps the phase, as a whole. -/
theorem State.finish_of_phase {old s : State} (h : s.phase = old.phase) :
    old.finish s = s.withMem (s.putCbs (fun o => ¬ old.cbChanged s o = true) (List.range cbEnd) s.mem) := by
  rw [State.finish_eq (drainEnded_of_phase h), State.storeChanges_eq]

/-- The stores of an event, as a whole. -/
def State.eventMem (old s : State) : List Host.Cell :=
  s.putCbs (fun o => ¬ old.cbChanged s o = true) (List.range cbEnd) s.mem

/-- The end of any event: the changed fields are stored, and, if the drain ended, the copies take the rewrite's values. -/
theorem State.finish_cases (old s : State) :
    (drainEnded old s = false ∧ old.finish s = s.withMem (old.eventMem s)) ∨
      (drainEnded old s = true ∧ old.finish s = (s.withMem (old.eventMem s)).rewriteCopies) := by
  unfold State.finish State.eventMem
  rw [State.storeChanges_eq]
  cases drainEnded old s
  · exact .inl ⟨rfl, rfl⟩
  · exact .inr ⟨rfl, rfl⟩

theorem State.finish_mem (old s : State) : (old.finish s).mem = old.eventMem s := by
  rcases State.finish_cases old s with ⟨-, h⟩ | ⟨-, h⟩
  · rw [h, State.withMem_mem]
  · rw [h, State.rewriteCopies_mem, State.withMem_mem]

theorem State.finish_slots (old s : State) : (old.finish s).slots = s.slots := by
  rcases State.finish_cases old s with ⟨-, h⟩ | ⟨-, h⟩ <;> rw [h] <;> rfl

theorem State.finish_straps (old s : State) : (old.finish s).straps = s.straps := by
  rcases State.finish_cases old s with ⟨-, h⟩ | ⟨-, h⟩ <;> rw [h] <;> rfl

theorem State.finish_phase (old s : State) : (old.finish s).phase = s.phase := by
  rcases State.finish_cases old s with ⟨-, h⟩ | ⟨-, h⟩ <;> rw [h] <;> rfl

theorem State.finish_drives (old s : State) : (old.finish s).drives = s.drives := by
  rcases State.finish_cases old s with ⟨-, h⟩ | ⟨-, h⟩ <;> rw [h] <;> rfl

theorem State.finish_waiters (old s : State) : (old.finish s).waiters = s.waiters := by
  rcases State.finish_cases old s with ⟨-, h⟩ | ⟨-, h⟩ <;> rw [h] <;> rfl

theorem State.finish_pass (old s : State) : (old.finish s).pass = s.pass := by
  rcases State.finish_cases old s with ⟨-, h⟩ | ⟨-, h⟩ <;> rw [h] <;> rfl

theorem State.finish_answer (old s : State) : (old.finish s).answer = s.answer := by
  rcases State.finish_cases old s with ⟨-, h⟩ | ⟨-, h⟩ <;> rw [h] <;> rfl

theorem State.finish_pending (old s : State) : (old.finish s).pending = s.pending := by
  rcases State.finish_cases old s with ⟨-, h⟩ | ⟨-, h⟩ <;> rw [h] <;> rfl

theorem State.finish_layout (old s : State) : (old.finish s).layoutVersion = s.layoutVersion := by
  rcases State.finish_cases old s with ⟨-, h⟩ | ⟨-, h⟩ <;> rw [h] <;> rfl

theorem State.eventMem_wf (old : State) {s : State} (h : Memory.wf s.mem) : Memory.wf (old.eventMem s) :=
  s.putCbs_wf _ _ h

/-- After an event a read of the block gives the part's byte where the event changed its word or its record, and what was there
elsewhere. -/
theorem State.read_eventMem (old s : State) (o : Nat) :
    Memory.read (old.eventMem s) (s.straps.cbBase + o) =
      if old.cbChanged s o = true then (s.cbByte o).getD (Memory.read s.mem (s.straps.cbBase + o))
      else Memory.read s.mem (s.straps.cbBase + o) := by
  unfold State.eventMem
  rw [State.read_putCbs]
  by_cases hc : old.cbChanged s o = true
  · rw [if_pos hc]
    by_cases ho : o < cbEnd
    · rw [if_pos ⟨List.mem_range.mpr ho, not_not_intro hc⟩]
    · rw [if_neg (fun h => ho (List.mem_range.mp h.1)), State.cbByte_of_le s (Nat.le_of_not_lt ho)]; rfl
  · rw [if_neg (fun h => h.2 hc), if_neg hc]

/-- An event leaves every byte outside the fields of the block as its effects left it. -/
theorem State.read_eventMem_outside (old s : State) (x : Nat)
    (h : x < s.straps.cbBase ∨ s.straps.cbBase + cbEnd ≤ x) :
    Memory.read (old.eventMem s) x = Memory.read s.mem x :=
  s.read_putCbs_outside _ _ _ _ fun o ho => by
    have ho := List.mem_range.mp ho
    generalize cbEnd = n at h ho
    omega

/-! ### The writings and the tick -/

/-- The DRAM after a run of offsets has been stored. -/
def State.rangeMem (s : State) (a b : Nat) : List Host.Cell :=
  s.putCbs (fun _ => False) ((List.range (b - a)).map (a + ·)) s.mem

theorem State.rangeMem_wf {s : State} (h : Memory.wf s.mem) (a b : Nat) : Memory.wf (s.rangeMem a b) := s.putCbs_wf _ _ h

theorem State.read_rangeMem (s : State) (a b o : Nat) :
    Memory.read (s.rangeMem a b) (s.straps.cbBase + o) =
      if a ≤ o ∧ o < b then (s.cbByte o).getD (Memory.read s.mem (s.straps.cbBase + o))
      else Memory.read s.mem (s.straps.cbBase + o) := by
  unfold State.rangeMem
  rw [State.read_putCbs]
  have hm : o ∈ (List.range (b - a)).map (a + ·) ↔ a ≤ o ∧ o < b := by
    simp only [List.mem_map, List.mem_range]
    constructor
    · rintro ⟨i, hi, rfl⟩; omega
    · rintro ⟨h1, h2⟩; exact ⟨o - a, by omega, by omega⟩
  simp only [hm, not_false_eq_true, and_true]

theorem State.read_rangeMem_outside (s : State) (a b x : Nat) (h : x < s.straps.cbBase ∨ s.straps.cbBase + b ≤ x) :
    Memory.read (s.rangeMem a b) x = Memory.read s.mem x :=
  s.read_putCbs_outside _ _ _ _ fun o ho => by
    simp only [List.mem_map, List.mem_range] at ho
    obtain ⟨i, hi, rfl⟩ := ho
    omega

/-- The state with one more millisecond on the clock. -/
def State.later (s : State) : State := { s with now := { s.now with ms := s.now.ms + 1 } }

/-- What a tick does: time goes on, and a writing in progress stores its next word. -/
theorem State.tick_cases (s : State) :
    s.tick = s.later ∨
      (∃ n, n < cbEnd ∧ s.phase = .defaultWriting n ∧
        s.tick = { s.later with mem := s.later.rangeMem n (n + 2), phase := .defaultWriting (n + 2) }) ∨
      (∃ n, n < cbEnd ∧ s.phase = .rewriting n ∧
        s.tick = { s.later with mem := s.later.rangeMem n (n + 2), phase := .rewriting (n + 2) }) := by
  unfold State.tick
  simp only [State.storeCbRange_eq]
  split
  · rename_i n hn
    split
    · rename_i h; exact .inr (.inl ⟨n, h, hn, rfl⟩)
    · exact .inl rfl
  · rename_i n hn
    split
    · rename_i h; exact .inr (.inr ⟨n, h, hn, rfl⟩)
    · exact .inl rfl
  · exact .inl rfl

/-- A Waiter Table from which the RESET_HOLD entries have gone (R73). -/
def WaiterEntry.released (e : WaiterEntry) : WaiterEntry := if e = .resetHold then .empty else e

/-- What the end of a writing does: the rest is stored, the layout version becomes 1, watching runs. -/
theorem State.endWriting_eq (s : State) (n : Nat) :
    s.endWriting n = { s with
      mem := s.rangeMem n cbEnd, layoutVersion := 1, phase := .running, waiters := updAll s.waiters WaiterEntry.released } := by
  unfold State.endWriting
  rw [State.storeCbRange_eq]
  rfl

/-- The bases of the Control Block and of the pool: the block lies below the pool (R5). -/
theorem Straps.cb_below_pool (p : Straps) : p.cbBase + 512 ≤ p.poolBase := by
  have key : ∀ a b d : Fin 4, (Straps.mk a b 0 d false).cbBase + 512 ≤ (Straps.mk a b 0 d false).poolBase := by
    decide +kernel
  exact key p.dramSize p.slotCount p.base

end Sys2Proof.Machine
end

