-- ==== Sys2Proof/Laws/Work.lean ====
section
/-! SUPPORT. That drive work, its ends and failures, the volumes and the schedule keep what Keeps says. -/

namespace Sys2Proof.Machine

namespace Keeps

variable {s t : State}

/-! ### Write-back -/

theorem leaveFlush (h : Keeps s t) (d : DriveNo) (k : Nat) (b : Bool) :
    Keeps s (t.updRecord d (fun m => m.leaveFlush k b)) := h.updRecord d (fun _ => rfl)

theorem flushComplete (h : Keeps s t) (d : DriveNo) : Keeps s (t.flushComplete d) := by
  unfold State.flushComplete; split
  · exact h.endRequest _ _ _
  · exact h

theorem flushEnd (h : Keeps s t) (d : DriveNo) (k : Nat) (e : WriteEnd) : Keeps s (t.flushEnd d k e) := by
  unfold State.flushEnd
  repeat' split
  all_goals first
    | exact h
    | exact (h.leaveFlush _ _ _).flushComplete _
    | refine Keeps.requestWriteFor (h.updRecord d ?_) _ _ _; intro m; rfl

theorem freezeEnd (h : Keeps s t) (d : DriveNo) (k : Nat) (e : WriteEnd) : Keeps s (t.freezeEnd d k e) := by
  unfold State.freezeEnd; split
  · exact h.endRequest _ _ _
  · exact h

theorem askAgain (h : Keeps s t) (d : DriveNo) (k : Nat) : Keeps s (t.askAgain d k) := by
  unfold State.askAgain; dsimp only; split
  · exact h.requestWriteFor _ _ _
  · exact h

theorem afterWrite (h : Keeps s t) (d : DriveNo) (k : Nat) (b : Bool) (e : WriteEnd) : Keeps s (t.afterWrite d k b e) := by
  unfold State.afterWrite
  extract_lets s1 s2
  have g : Keeps s s2 := (((h.flushEnd d k e).freezeEnd d k e).askAgain d k).ageCheck k
  clear_value s2 s1
  exact ite (ite g (g.releaseEvent _)) (ite g.evictionRepeat g)

theorem carryPending (h : Keeps s t) (d : DriveNo) (k : Nat) : Keeps s (t.carryPending d k) := by
  unfold State.carryPending
  split
  · exact h
  · dsimp only; split
    · exact (h.updSlot _ _).requestWriteFor _ _ _
    · exact ((h.updSlot _ _).leaveFlush _ _ _).flushComplete _

theorem afterFill (h : Keeps s t) (d : DriveNo) (k : Nat) : Keeps s (t.afterFill d k) :=
  ((h.carryPending d k).askAgain d k).ageCheck k

theorem fillStopped (h : Keeps s t) (k : Nat) : Keeps s (t.fillStopped k) := by
  unfold State.fillStopped
  repeat' split
  · exact h
  · exact (h.fillAbsent _ _ _).updSlot _ _
  · exact h.freeSlot _

theorem fillStoppedFully (h : Keeps s t) (d : DriveNo) (k : Nat) : Keeps s (t.fillStoppedFully d k) := by
  exact ite h (ite ((h.fillStopped k).afterFill _ _) ((h.fillStopped k).releaseEvent _))

/-! ### Head movement -/

theorem position (h : Keeps s t) (d : DriveNo) : Keeps s (t.position d) := h.updDrive _ _

theorem settleStage (h : Keeps s t) (d : DriveNo) : Keeps s (t.settleStage d) := by
  unfold State.settleStage; split
  · exact h.updDrive _ _
  · exact h.position _

theorem loadStage (h : Keeps s t) (d : DriveNo) : Keeps s (t.loadStage d) := (h.updDrive _ _).settleStage d

theorem giveStep (h : Keeps s t) (d : DriveNo) (b : Bool) (m : Move) : Keeps s (t.giveStep d b m) := h.updDrive _ _

theorem stepStage (h : Keeps s t) (d : DriveNo) : Keeps s (t.stepStage d) := by
  unfold State.stepStage; split
  · exact h
  · dsimp only; split
    · exact h.loadStage _
    · exact h.giveStep _ _ _

theorem beginRecal (h : Keeps s t) (d : DriveNo) : Keeps s (t.beginRecal d) := by
  unfold State.beginRecal; split
  · exact (h.updDrive _ _).stepStage _
  · exact h.giveStep _ _ _

theorem recalStage (h : Keeps s t) (d : DriveNo) : Keeps s (t.recalStage d) := by
  unfold State.recalStage; split
  · exact h.beginRecal _
  · exact h.stepStage _

theorem motorStage (h : Keeps s t) (d : DriveNo) : Keeps s (t.motorStage d) := by
  unfold State.motorStage
  dsimp only
  repeat' split
  all_goals first
    | exact h
    | exact h.updDrive _ _
    | exact h.recalStage _

theorem choose (h : Keeps s t) (d : DriveNo) (o : Op) (b : Bool) : Keeps s (t.choose d o b) := h.updDrive _ _

theorem notices (h : Keeps s t) : Keeps s t.notices := h.drives _

/-! ### Volumes -/

theorem mountEnd (h : Keeps s t) (d : DriveNo) (r : ProbeResult) : Keeps s (t.mountEnd d r) := by
  unfold State.mountEnd
  split
  · exact Keeps.geometry (h.updRecord d (f := fun m => m.mounted _ _) fun _ => rfl) _
  all_goals exact (h.unmount _).setOutcome _ _

theorem reclaimSlots (h : Keeps s t) (d : DriveNo) (cls : OpClass) : Keeps s (t.reclaimSlots d cls) := by
  unfold State.reclaimSlots
  extract_lets ks s1
  have g : Keeps s s1 := foldl (f := fun u k => u.updSlot k (fun x => x.reclaimed t.now.ms)) (fun u k => (refl u).updSlot k _) ks h
  clear_value s1 ks
  exact foldl (f := fun u k => u.requestWriteFor k .reclaim cls) (fun u k => (refl u).requestWriteFor k _ _) ks g

theorem reclaimEnd (h : Keeps s t) (d : DriveNo) (r : ProbeResult) : Keeps s (t.reclaimEnd d r) := by
  unfold State.reclaimEnd
  repeat' split
  all_goals first
    | exact (h.reclaimSlots _ _).endRequest _ _ _
    | exact h.endRequest _ _ _

theorem probeEnded (h : Keeps s t) (d : DriveNo) (r : ProbeResult) : Keeps s (t.probeEnded d r) := by
  unfold State.probeEnded
  split
  · exact h.mountEnd _ _
  · exact h.reclaimEnd _ _
  · exact h

theorem dropOps (h : Keeps s t) (d : DriveNo) (q : Op → Bool) : Keeps s (t.dropOps d q) := by
  unfold State.dropOps; dsimp only; split
  · exact (h.updDrive _ _).pass _
  · exact h.updDrive _ _

theorem discardNow (h : Keeps s t) (d : DriveNo) : Keeps s (t.discardNow d) :=
  (((((h.dropOps _ _).freeSlots _).failDriveWaiters _ _).unmount _).setOutcome _ _).released _ _

theorem discardIfPending (h : Keeps s t) (d : DriveNo) : Keeps s (t.discardIfPending d) := by
  unfold State.discardIfPending; split
  · exact h.discardNow _
  · exact h

theorem releaseDone (h : Keeps s t) (d : DriveNo) : Keeps s (t.releaseDone d) :=
  (((h.freeSlots _).unmount _).setOutcome _ _).released _ _

theorem releasePhase2 (h : Keeps s t) (d : DriveNo) : Keeps s (t.releasePhase2 d) := by
  unfold State.releasePhase2
  extract_lets s1 dropped freed
  have g : Keeps s s1 := Keeps.dropOps (h.updRecord d (f := fun m => { m with progress := m.progress.map _ }) fun _ => rfl) d _
  clear_value s1
  exact ite (g.releaseDone d) ((foldl (f := State.fillStopped) (fun u k => (refl u).fillStopped k) dropped g).released freed none)

theorem removeSlots (h : Keeps s t) (d : DriveNo) : Keeps s (t.removeSlots d) :=
  (foldl (f := State.strandSlot) (fun u k => (refl u).strandSlot k) _ h).freeSlots _

theorem removeVolume (h : Keeps s t) (d : DriveNo) : Keeps s (t.removeVolume d) := by
  unfold State.removeVolume; dsimp only; split
  · exact (h.unmount _).setOutcome _ _
  · exact ((h.endRequest _ _ _).updRecord d (f := fun m => { m with pendingDiscard := false }) fun _ => rfl).setOutcome _ _

theorem removeDiskette (h : Keeps s t) (d : DriveNo) : Keeps s (t.removeDiskette d) :=
  (((h.removeSlots _).removeVolume _).failDriveWaiters _ _).released _ _

theorem drainVolume (h : Keeps s t) (d : DriveNo) : Keeps s (t.drainVolume d) := by
  unfold State.drainVolume; split
  · exact h.unmount _
  · exact h.updRecord d fun _ => rfl

theorem rewriting (h : Keeps s t) (hp : s.phase = .draining) : Keeps s { t with phase := .rewriting 2 } :=
  ⟨h.1, h.2, h.3, h.4, h.5, h.6, h.7, h.8, h.9, .inr ⟨hp, rfl⟩⟩

/-- The end of the drain changes the phase besides. -/
theorem drainEnd (h : Keeps s t) (hp : t.phase = .draining) : Keeps s t.drainEnd := by
  unfold State.drainEnd
  extract_lets s1 freed
  have g1 : Keeps s s1 := foldl (f := State.strandSlot) (fun u k => (refl u).strandSlot k) t.leftDirty h
  have g : Keeps s ((driveNos.foldl State.drainVolume (s1.freeSlots freed)).released freed none) :=
    (foldl (f := State.drainVolume) (fun u d => (refl u).drainVolume d) driveNos (g1.freeSlots freed)).released freed none
  refine g.rewriting ?_
  rcases h.phase with e | ⟨e, _⟩
  · rw [← e]; exact hp
  · exact e

/-! ### Passes -/

theorem endOp (h : Keeps s t) (d : DriveNo) (k : Option Nat) : Keeps s (t.endOp d k) :=
  ((h.removeOp d k).updDrive d _).pass none

theorem failWrite (h : Keeps s t) (k : Nat) : Keeps s (t.failWrite k) := by
  unfold State.failWrite; split
  · exact h.updSlot _ _
  · exact h

theorem opFailed (h : Keeps s t) (d : DriveNo) (f : DriveFailure) : Keeps s (t.opFailed d f) := by
  unfold State.opFailed
  split
  · exact h
  · rename_i o _
    extract_lets s0 s1 s2
    have g0 : Keeps s s0 := h.updDrive _ _
    have g1 : Keeps s s1 := ite (g0.endOp _ _) (g0.removeOp _ _)
    have g : Keeps s s2 := g1.driveFault _ _ _ _ _
    clear_value s2 s1 s0
    split
    · exact (g.failFillWaiters _ _).fillStoppedFully _ _
    · exact ((g.failWrite _).afterWrite _ _ _ _).discardIfPending _
    · exact g.probeEnded _ _

theorem fillEnd (h : Keeps s t) (p : Pass) : Keeps s (t.fillEnd p) := by
  unfold State.fillEnd
  split
  · extract_lets lost s0 s1
    have g0 : Keeps s s0 := (h.fillAbsent _ _ _).updSlot _ _
    have g : Keeps s s1 := by
      refine ite ?_ h
      clear_value s0 lost
      split
      · exact g0
      · exact g0.driveFault _ _ _ _ _
    clear_value s1
    exact (g.endOp _ _).afterFill _ _
  · exact h

theorem writeRefused (h : Keeps s t) (d : DriveNo) (o : Op) (k : Nat) (e : Bool) : Keeps s (t.writeRefused d o k e) := by
  unfold State.writeRefused
  extract_lets s1
  have g : Keeps s s1 := h.updSlot _ _
  clear_value s1
  exact ((g.endOp _ _).driveFault _ _ _ _ _).afterWrite _ _ _ _

theorem beginWrite (h : Keeps s t) (d : DriveNo) (o : Op) (k : Nat) (g : Byte) (e : Bool) :
    Keeps s (t.beginWrite d o k g e) := by
  unfold State.beginWrite
  repeat' split
  · exact h.writeRefused _ _ _ _
  · exact (h.updSlot _ _).pass _
  · exact ((h.updSlot _ _).endOp _ _).afterWrite _ _ _ _

theorem writeEnd (h : Keeps s t) (p : Pass) : Keeps s (t.writeEnd p) := by
  unfold State.writeEnd
  split
  · extract_lets s1
    have g : Keeps s s1 := ite (h.updSlot _ _) h
    clear_value s1
    exact (g.endOp _ _).afterWrite _ _ _ _
  · exact h

theorem sectorsFail (h : Keeps s t) (p : Pass) (c : FaultCode) (ps : List Nat) : Keeps s (t.sectorsFail p c ps) := by
  unfold State.sectorsFail
  split
  · extract_lets s1
    have g : Keeps s s1 := ite (h.updSlot _ _) h
    clear_value s1
    exact g.driveFault _ _ _ _ _
  · exact h

theorem writeRoundEnd (h : Keeps s t) (p : Pass) : Keeps s (t.writeRoundEnd p) := by
  unfold State.writeRoundEnd
  split
  · extract_lets s1
    have g : Keeps s s1 := ite h (h.sectorsFail _ _ _)
    clear_value s1
    exact ite (g.pass _) (g.writeEnd _)
  · exact h

theorem verifyRoundEnd (h : Keeps s t) (p : Pass) (bad : List Nat) : Keeps s (t.verifyRoundEnd p bad) := by
  unfold State.verifyRoundEnd
  split
  · exact h
  · split
    · exact h.writeEnd _
    · split
      · extract_lets s1 todo p1
        have g : Keeps s s1 := ite (h.updSlot _ _) h
        clear_value p1 todo s1
        exact ite ((g.pass _).writeRoundEnd _) (g.pass _)
      · exact (h.sectorsFail _ _ _).writeEnd _

theorem verifyResult (h : Keeps s t) (p : Pass) (q : Nat) (b : Bool) : Keeps s (t.verifyResult p q b) := by
  unfold State.verifyResult
  split
  · extract_lets s1 todo1 bad1 p1 s2
    have g : Keeps s s1 := ite (h.updSlot _ _) h
    have g2 : Keeps s s2 := g.pass _
    clear_value s2 p1 bad1 todo1 s1
    exact ite (g2.verifyRoundEnd _ _) g2
  · exact h

theorem verifyTimeout (h : Keeps s t) (p : Pass) : Keeps s (t.verifyTimeout p) := by
  unfold State.verifyTimeout
  split
  · extract_lets s1
    have g : Keeps s s1 := ite (h.updSlot _ _) h
    clear_value s1
    exact g.verifyRoundEnd _ _
  · exact h

theorem probeEnd (h : Keeps s t) (p : Pass) (r : ProbeResult) : Keeps s (t.probeEnd p r) := (h.endOp _ _).probeEnded _ _

theorem beginPass (h : Keeps s t) (d : DriveNo) (o : Op) : Keeps s (t.beginPass d o) := by
  unfold State.beginPass
  split
  · dsimp only; split
    · exact h.pass _
    · exact (h.pass _).fillEnd _
  · exact h.beginWrite _ _ _ _ _
  · exact h.pass _

theorem giveChannel (h : Keeps s t) (d : DriveNo) (o : Op) : Keeps s (t.giveChannel d o) := h.updOp _ _ _

theorem startPass (h : Keeps s t) (d : DriveNo) (o : Op) : Keeps s (t.startPass d o) :=
  ite (h.beginPass d o) (h.opFailed d .notReady)

theorem grantChannel (h : Keeps s t) (d : DriveNo) (o : Op) : Keeps s (t.grantChannel d o) := (h.giveChannel d o).startPass d o

/-! ### The schedule -/

theorem volumeStep (h : Keeps s t) {d : DriveNo} {u : State} (hu : t.volumeStep d = some u) : Keeps s u := by
  unfold State.volumeStep at hu
  split at hu
  · split at hu
    · cases hu; exact h.endRequest _ _ _
    · cases hu
  · repeat' split at hu
    all_goals cases hu
    · exact h.releasePhase2 _
    · exact h.releaseDone _
  · cases hu

theorem drainStep (h : Keeps s t) {u : State} (hu : t.drainStep = some u) : Keeps s u := by
  unfold State.drainStep at hu
  split at hu
  · rename_i hp
    have e := Option.some.inj hu
    rw [← e]
    exact h.drainEnd hp.1
  · cases hu

theorem selectStep (h : Keeps s t) {d : DriveNo} {u : State} (hu : t.selectStep d = some u) : Keeps s u := by
  unfold State.selectStep at hu
  dsimp only at hu
  split at hu
  · cases hu
  · split at hu
    · cases hu
    · split at hu
      · cases hu; exact (h.choose _ _ _).opFailed _ _
      · cases hu; exact (h.choose _ _ _).motorStage _

theorem arbiterStep (h : Keeps s t) {u : State} (hu : t.arbiterStep = some u) : Keeps s u := by
  unfold State.arbiterStep at hu
  split at hu
  · cases hu
  · obtain ⟨x, -, rfl⟩ := Option.map_eq_some_iff.mp hu
    exact h.grantChannel _ _

theorem nextStep (h : Keeps s t) {u : State} (hu : t.nextStep = some u) : Keeps s u := by
  unfold State.nextStep at hu
  simp only [Option.orElse_eq_orElse, Option.orElse_eq_or, Option.or_eq_some_iff, List.findSome?_eq_some_iff] at hu
  rcases hu with ⟨_, d, _, _, hd, _⟩ | ⟨_, hu⟩
  · exact h.volumeStep hd
  · rcases hu with hu | ⟨_, hu⟩
    · exact h.drainStep hu
    · rcases hu with ⟨_, d, _, _, hd, _⟩ | ⟨_, hu⟩
      · exact h.selectStep hd
      · exact h.arbiterStep hu

theorem settleLoop (n : Nat) (h : Keeps s t) : Keeps s (State.settleLoop n t) := by
  induction n generalizing t with
  | zero => exact h
  | succ n ih =>
    unfold State.settleLoop
    split
    · rename_i u hu; exact ih (h.nextStep hu)
    · exact h

theorem schedule (h : Keeps s t) : Keeps s t.schedule := (h.settleLoop _).notices

theorem roundCheck (h : Keeps s t) (p : Pass) : Keeps s (t.roundCheck p) := by
  unfold State.roundCheck
  repeat' split
  all_goals first
    | exact h
    | exact h.fillEnd _
    | exact h.writeRoundEnd _
    | exact h.verifyTimeout _
    | exact h.probeEnd _ _

theorem searchPulse (h : Keeps s t) (p : Pass) (n : Nat) : Keeps s (t.searchPulse p n) := by
  unfold State.searchPulse
  repeat' split
  all_goals first
    | exact h
    | exact h.pass _
    | exact h.probeEnd _ _

theorem passPulse (h : Keeps s t) (p : Pass) : Keeps s (t.passPulse p) := by
  unfold State.passPulse
  dsimp only
  repeat' split
  · exact h.pass _
  · exact (h.pass _).searchPulse _ _
  · exact (h.pass _).roundCheck _

theorem beginRecovery (h : Keeps s t) (p : Pass) : Keeps s (t.beginRecovery p) := by
  unfold State.beginRecovery; split
  · exact h.opFailed _ _
  · exact ((h.pass _).updDrive _ _).beginRecal _

theorem recoveryEnd (h : Keeps s t) (p : Pass) : Keeps s (t.recoveryEnd p) := ((h.pass _).updDrive _ _).roundCheck _

theorem settled (h : Keeps s t) (d : DriveNo) : Keeps s (t.settled d) := by
  unfold State.settled
  repeat' split
  all_goals first
    | exact h
    | exact h.recoveryEnd _
    | exact h.position _

theorem stepDone (h : Keeps s t) (d : DriveNo) (u : StepUnderWay) : Keeps s (t.stepDone d u) := by
  unfold State.stepDone
  dsimp only
  have g := h.updDrive d (fun v => { v with step := none, head := reckon v.head u.inward })
  repeat' split
  all_goals first
    | exact g
    | exact (g.updDrive _ _).stepStage _
    | exact (g.updDrive _ _).opFailed _ _
    | exact g.giveStep _ _ _
    | exact g.stepStage _
    | exact g.motorStage _

end Keeps

end Sys2Proof.Machine
end

