-- ==== Sys2Proof/Laws/Takes.lean ====
section
/-! SUPPORT. What a host write into the Control Block never touches, and that the fields it takes stay in their ranges. -/

namespace Sys2Proof.Machine

/-- What Keeps says but for the Settings, the classes and the host fields, which stay sound (R148, R149, R150). -/
structure Takes (s t : State) : Prop where
  pending : t.pending = s.pending
  straps : t.straps = s.straps
  layout : t.layoutVersion = s.layoutVersion
  slots : t.slots.length = s.slots.length
  wf : Memory.wf s.mem → Memory.wf t.mem
  low : ∀ a, a < s.straps.poolBase → Memory.read t.mem a = Memory.read s.mem a
  phase : t.phase = s.phase ∨ (s.phase = .draining ∧ t.phase = .rewriting 2)
  settings : s.settings.InRange → t.settings.InRange
  classes : s.HostNotBarred → t.HostNotBarred
  host : s.HostInRange → t.HostInRange

theorem HostFields.inRange_unlocked (h : HostFields) : h.unlocked.InRange ↔ h.InRange := Iff.rfl

theorem HostFields.InRange.of_unlocked {h g : HostFields} (e : h.unlocked = g.unlocked) (hg : g.InRange) : h.InRange := by
  rw [← HostFields.inRange_unlocked, e]; exact hg

theorem Keeps.takes {s t : State} (h : Keeps s t) : Takes s t where
  pending := h.pending
  straps := h.straps
  layout := h.layout
  slots := h.slots
  wf := h.wf
  low := h.low
  phase := h.phase
  settings := fun g => by rw [h.settings]; exact g
  classes := fun g => by unfold State.HostNotBarred State.classOf; rw [h.classes]; exact g
  host := fun g d => .of_unlocked (h.host d) (g d)

namespace Takes

variable {s t u : State}

theorem refl (s : State) : Takes s s := (Keeps.refl s).takes

theorem trans (h : Takes s t) (g : Takes t u) : Takes s u where
  pending := g.pending.trans h.pending
  straps := g.straps.trans h.straps
  layout := g.layout.trans h.layout
  slots := g.slots.trans h.slots
  wf := fun w => g.wf (h.wf w)
  low := fun a ha => (g.low a (by rw [h.straps]; exact ha)).trans (h.low a ha)
  phase := by
    rcases h.phase with hp | ⟨hp, hq⟩ <;> rcases g.phase with gp | ⟨gp, gq⟩
    · exact .inl (gp.trans hp)
    · exact .inr ⟨hp.symm.trans gp, gq⟩
    · exact .inr ⟨hp, gp.trans hq⟩
    · rw [hq] at gp; exact absurd gp (by simp)
  settings := fun w => g.settings (h.settings w)
  classes := fun w => g.classes (h.classes w)
  host := fun w => g.host (h.host w)

theorem keeps (h : Takes s t) (g : Keeps t u) : Takes s u := h.trans g.takes

end Takes

/-! ### Requests -/

namespace Keeps

variable {s t : State}

theorem beginRequest (h : Keeps s t) (d : DriveNo) (v : VolumeState) (k : RequestKind) (c : OpClass) :
    Keeps s (t.beginRequest d v k c) := h.updRecord d fun _ => rfl

theorem takeMount (h : Keeps s t) (d : DriveNo) (c : OpClass) : Keeps s (t.takeMount d c) :=
  ((Keeps.updRecord (h.beginRequest d .mounting .mount c) d
    (f := fun m => { m with latched := m.host.volume }) fun _ => rfl).requestProbe d c).schedule

theorem writesFor (h : Keeps s t) (ks : List Nat) (r : Reason) (c : OpClass) :
    Keeps s (ks.foldl (fun u k => u.requestWriteFor k r c) t) :=
  foldl (f := fun u k => u.requestWriteFor k r c) (fun u k => (refl u).requestWriteFor k r c) ks h

theorem takeFlush (h : Keeps s t) (d : DriveNo) (c : OpClass) : Keeps s (t.takeFlush d c) := by
  unfold State.takeFlush
  extract_lets ks members s1
  have g : Keeps s s1 := Keeps.updRecord (h.beginRequest d .flushing .flush c) d
    (f := fun m => { m with flushSet := members, flushFailed := false }) fun _ => rfl
  clear_value s1 members ks
  exact ite (h.setOutcome _ _) (g.writesFor _ _ _).schedule

theorem takeFreeze (h : Keeps s t) (d : DriveNo) (c : OpClass) : Keeps s (t.takeFreeze d c) :=
  ((h.beginRequest d .freezing .freeze c).writesFor _ _ _).schedule

theorem takeThaw (h : Keeps s t) (d : DriveNo) : Keeps s (t.takeThaw d) := h.endRequest _ _ _

theorem takeRelease (h : Keeps s t) (d : DriveNo) (c : OpClass) : Keeps s (t.takeRelease d c) :=
  ((h.beginRequest d .releasing .release c).writesFor _ _ _).schedule

theorem takeReclaim (h : Keeps s t) (d : DriveNo) (c : OpClass) : Keeps s (t.takeReclaim d c) :=
  ite (h.setOutcome _ _) (ite (h.setOutcome _ _) ((h.beginRequest d .reclaiming .reclaim c).requestProbe d c).schedule)

theorem takeDiscard (h : Keeps s t) (d : DriveNo) : Keeps s (t.takeDiscard d) :=
  ite (h.updRecord d fun _ => rfl) (h.discardNow d).schedule

theorem take (h : Keeps s t) (d : DriveNo) (q : Request) (c : OpClass) : Keeps s (t.take d q c) := by
  cases q
  · exact h.takeMount _ _
  · exact h.takeFlush _ _
  · exact h.takeFreeze _ _
  · exact h.takeThaw _
  · exact h.takeRelease _ _
  · exact h.takeReclaim _ _
  · exact h.takeDiscard _

theorem request (h : Keeps s t) (d : DriveNo) (b : Byte) : Keeps s (t.request d b) := by
  unfold State.request
  refine ite h (ite (h.setOutcome _ _) ?_)
  split
  · exact h.setOutcome _ _
  · refine ite (h.setOutcome _ _) ?_
    split
    · exact h.setOutcome _ _
    · exact h.take _ _ _

/-! ### The effects of a Setting -/

theorem expireWaiters (h : Keeps s t) : Keeps s t.expireWaiters := h.waiters _

theorem promoteAll (h : Keeps s t) : Keeps s t.promoteAll := h.drives _

theorem unloadReached (h : Keeps s t) : Keeps s t.unloadReached := h.drives _

theorem idleReached (h : Keeps s t) : Keeps s t.idleReached := h.drives _

theorem ageReached (h : Keeps s t) : Keeps s t.ageReached :=
  (foldl (f := State.ageCheck) (fun u k => (refl u).ageCheck k) _ h).schedule

end Keeps

/-! ### Clamps -/

theorem clampTop_le (b : Byte) (n : Nat) (h : n < 256) : (clampTop b n).toNat ≤ n := by
  unfold clampTop
  split
  · simp only [BitVec.toNat_ofNat]; omega
  · omega

theorem Settings.put_inRange {t : Settings} (h : t.InRange) (i : Nat) (b : Byte) : (t.put i b).InRange := by
  obtain ⟨h0, h1, h2, h3, h4, h5, h6⟩ := h
  unfold Settings.put
  split
  · exact ⟨clampTop_le _ _ (by decide), h1, h2, h3, h4, h5, h6⟩
  · exact ⟨h0, clampTop_le _ _ (by decide), h2, h3, h4, h5, h6⟩
  · refine ⟨h0, h1, ?_, h3, h4, h5, h6⟩
    dsimp only; unfold boolByte; split <;> decide
  · exact ⟨h0, h1, h2, clampTop_le _ _ (by decide), h4, h5, h6⟩
  · exact ⟨h0, h1, h2, h3, h4, h5, h6⟩
  · exact ⟨h0, h1, h2, h3, h4, h5, h6⟩
  · refine ⟨h0, h1, h2, h3, ?_, ?_, h6⟩
    · dsimp only; split
      · decide
      · unfold clampTop; split
        · decide
        · omega
    · dsimp only; split
      · decide
      · exact clampTop_le _ _ (by decide)
  · exact ⟨h0, h1, h2, h3, h4, h5, clampTop_le _ _ (by decide)⟩

theorem clampRetry_range (b : Byte) : 1 ≤ (clampRetry b).toNat ∧ (clampRetry b).toNat ≤ 8 := by
  unfold clampRetry
  split
  · decide
  · rename_i h
    refine ⟨?_, clampTop_le _ _ (by decide)⟩
    unfold clampTop
    split
    · decide
    · have : b.toNat ≠ 0 := fun e => h (BitVec.eq_of_toNat_eq (by simpa using e))
      omega

theorem HostFields.put_inRange {h : HostFields} (g : h.InRange) (o : Nat) (b : Byte) : (h.put o b).InRange := by
  obtain ⟨g0, g1, g2, g3⟩ := g
  unfold HostFields.put
  split <;> (try split) <;> first
    | exact ⟨g0, g1, g2, g3⟩
    | exact ⟨clampTop_le _ _ (by decide), g1, g2, g3⟩
    | exact ⟨g0, clampTop_le _ _ (by decide), g2, g3⟩
    | exact ⟨g0, g1, (clampRetry_range b).1, (clampRetry_range b).2⟩

/-! ### Taking a write -/

namespace Takes

variable {s t : State}

theorem putSetting (h : Takes s t) (i : Nat) (b : Byte) : Takes s (t.putSetting i b) := by
  have g : Takes t { t with settings := t.settings.put i b } :=
    ⟨rfl, rfl, rfl, rfl, id, fun _ _ => rfl, .inl rfl, fun w => Settings.put_inRange w i b, id, id⟩
  unfold State.putSetting
  extract_lets s1
  have g1 : Takes s s1 := h.trans g
  clear_value s1
  split
  · exact g1.keeps (Keeps.refl _).ageReached
  · exact g1.keeps (Keeps.refl _).expireWaiters
  · exact g1.keeps (Keeps.refl _).promoteAll
  · exact g1.keeps (Keeps.refl _).idleReached
  · exact g1.keeps (Keeps.refl _).unloadReached
  · exact g1

theorem putClass (h : Takes s t) (r : Requester) (b : Byte) : Takes s (t.putClass r b) := by
  unfold State.putClass
  split
  · exact h
  · rename_i hb
    refine h.trans ⟨rfl, rfl, rfl, rfl, id, fun _ _ => rfl, .inl rfl, id, fun w => ?_, id⟩
    unfold State.HostNotBarred State.classOf at *
    rw [upd_get]
    split
    · rename_i hr; exact fun e => hb ⟨hr, e⟩
    · exact w

theorem putHost (h : Takes s t) (d : DriveNo) (o : Nat) (b : Byte) : Takes s (t.putHost d o b) := by
  refine h.trans ⟨rfl, rfl, rfl, rfl, id, fun _ _ => rfl, .inl rfl, id, id, fun w e => ?_⟩
  unfold State.putHost
  rw [State.updRecord_records, upd_get]
  split
  · rename_i hd; subst hd; exact HostFields.put_inRange (w d) o b
  · exact w e

theorem onByte {f : Byte → State → State} (hf : ∀ b u, Takes u (f b u)) (b : Option Byte) (h : Takes s t) :
    Takes s (Machine.onByte b f t) := by
  cases b
  · exact h
  · exact h.trans (hf _ _)

theorem clearOutcome (h : Takes s t) (d : DriveNo) (l : Lanes) : Takes s (t.clearOutcome d l) := by
  unfold State.clearOutcome; split
  · exact h.keeps ((Keeps.refl _).setOutcome _ _)
  · exact h

theorem clearFault (h : Takes s t) (i : Fin 5) (l : Lanes) : Takes s (t.clearFault i l) := by
  unfold State.clearFault; split
  · exact h.trans ⟨rfl, rfl, rfl, rfl, id, fun _ _ => rfl, .inl rfl, id, id, id⟩
  · exact h

theorem putRecordWord (h : Takes s t) (d : DriveNo) (o : Nat) (l : Lanes) : Takes s (t.putRecordWord d o l) := by
  unfold State.putRecordWord
  repeat' split
  · exact onByte (fun b u => ((Keeps.refl u).request d b).takes) _ (onByte (fun b u => (refl u).putHost d 1 b) _ h)
  · exact h.clearOutcome _ _
  · exact onByte (fun b u => (refl u).putHost d _ b) _ (onByte (fun b u => (refl u).putHost d _ b) _ h)
  · exact h

/-- A write taken by the owners of its fields. -/
theorem putWord (h : Takes s t) (o : Nat) (l : Lanes) : Takes s (t.putWord o l) := by
  unfold State.putWord
  repeat' split
  all_goals first
    | exact h
    | exact onByte (fun b u => (refl u).putSetting _ b) _ (onByte (fun b u => (refl u).putSetting _ b) _ h)
    | exact onByte (fun b u => (refl u).putClass _ b) _ (onByte (fun b u => (refl u).putClass _ b) _ h)
    | exact h.putRecordWord _ _ _
    | exact h.clearFault _ _

end Takes

end Sys2Proof.Machine
end

