-- ==== Sys2Proof/Laws/Exec.lean ====
section
/-! SUPPORT. What a command can do, said once: the few ways in which any command of the table changes the state. -/

namespace Sys2Proof.Machine

/-- The state with the next event number, in which an event takes place. -/
def State.bumped (s : State) : State := { s with now := { s.now with seq := s.now.seq + 1 } }

/-- An event: its effects on the state with the next event number, then the part's stores. -/
theorem State.event_eq (s : State) (f : State → State) : s.event f = s.finish (f s.bumped) := rfl

theorem State.bumped_cbByte (s : State) (o : Nat) : s.bumped.cbByte o = s.cbByte o := by
  apply State.cbByte_congr <;> rfl

theorem Keeps.bumped (s : State) : Keeps s s.bumped :=
  ⟨rfl, rfl, rfl, rfl, rfl, rfl, fun _ => rfl, id, fun _ _ => rfl, .inl rfl⟩

/-- The written bytes of a Control Block write as they land, with its answer (R147). -/
def State.landed (s : State) (o : Nat) (l : Lanes) : State :=
  (onByte l.hi (fun b u => u.landByte (o + 1) b) (onByte l.lo (fun b u => u.landByte o b) s)).answered (.done none)

/-- The rows that may carry a write to ordinary memory, since the address alone decides a cycle's class (R6; log 8). -/
def Instr.mayStore (i : Instr) : Prop :=
  (∃ a op r, i = .ordinaryCycle a op r) ∨ (∃ a op r, i = .unpopulatedCycle a op r) ∨ ∃ a l r, i = .apertureWrite a l r

/-- The ways in which a command changes the state. -/
inductive Effect (i : Instr) (s t : State) : Prop where
  /-- Nothing. -/
  | same (h : t = s)
  /-- A cycle is answered and nothing else changes. -/
  | answer (a : Answer) (h : t = s.answered a)
  /-- An aperture cycle is held off during reset-flush (R73). -/
  | held (r : Requester) (hp : s.phase = .draining ∨ ∃ n, s.phase = .rewriting n)
      (h : t = (s.setWaiter r .resetHold).answered .retry)
  /-- An ordinary write (R7). -/
  | dram (a : Address) (l : Lanes) (hc : s.straps.classify (wordAddress a) = .ordinary)
      (hi : Instr.mayStore i) (h : t = s.dramWrite (wordAddress a) l)
  /-- An event of the part's own work. -/
  | event (u : State) (hk : Keeps s u) (h : t = s.finish u)
  /-- A Control Block write while watching runs, at an even offset of the block (R147). -/
  | host (o : Nat) (l : Lanes) (u : State) (ho : o % 2 = 0 ∧ o < 512) (hw : s.phase = .running) (hk : Takes s u)
      (h : t = s.finish (u.landed o l))
  /-- Power-on reset (R154, R155). -/
  | powerOn (lines : BitVec 9) (doors : BitVec 4) (pins : Pins)
      (hi : i = .powerOnReset lines doors pins) (h : t = s.powerOn lines doors pins)
  /-- The end of a writing (R155, R158). -/
  | writing (n : Nat) (hp : s.phase = .defaultWriting n ∨ s.phase = .rewriting n) (h : t = s.finish (s.bumped.endWriting n))
  /-- A bus reset (R156). -/
  | reset (u : State) (hp : s.phase = .running) (hk : Keeps s.bumped.resetFront u) (h : t = s.finish u)

namespace Effect

variable {i : Instr} {s : State}

/-- An event whose effects keep what Keeps says. -/
theorem ofEvent {f : State → State} (hf : Keeps s.bumped (f s.bumped)) : Effect i s (s.event f) :=
  .event _ ((Keeps.bumped s).trans hf) rfl

theorem ite {c : Prop} [Decidable c] {t u : State} (h : Effect i s t) (g : Effect i s u) : Effect i s (if c then t else u) := by
  split
  · exact h
  · exact g

end Effect

/-! ### Aperture cycles -/

namespace Keeps

variable {s t : State}

theorem final (h : Keeps s t) (r : Requester) (a : Answer) : Keeps s (t.final r a) := (h.setWaiter _ _).answered _

theorem refuse (h : Keeps s t) (a : Access) (c : FaultCode) : Keeps s (t.refuse a c) := (h.report _ _).final _ _

theorem dropWrite (h : Keeps s t) (a : Access) : Keeps s (t.dropWrite a) := (h.report _ _).final _ _

theorem raiseFill (h : Keeps s t) (key : Key) (c : OpClass) (e : Hold) : Keeps s (t.raiseFill key c e) := by
  unfold State.raiseFill
  refine ite ?_ h
  split
  · exact h.updOp _ _ _
  · exact h

theorem hold (h : Keeps s t) (a : Access) (e : Hold) : Keeps s (t.hold a e) := by
  unfold State.hold
  extract_lets e1 w s1
  have g : Keeps s s1 := h.report _ _
  clear_value s1 w e1
  split
  · exact ((h.setWaiter _ _).raiseFill _ _ _).answered _
  · exact ite (g.final _ _) (((g.setWaiter _ _).raiseFill _ _ _).answered _)

theorem serveRead (h : Keeps s t) (k : Nat) (a : Access) : Keeps s (t.serveRead k a) := by
  unfold State.serveRead
  extract_lets e s1
  have g : Keeps s s1 := ite ((h.report _ _).updSlot _ _) h
  clear_value s1
  exact (g.touch _).final _ _

theorem acceptWrite (h : Keeps s t) (k : Nat) (a : Access) (l : Lanes) : Keeps s (t.acceptWrite k a l) := by
  unfold State.acceptWrite
  extract_lets base s1 s2
  have g1 : Keeps s s1 := h.storeLanes (slotAddr_le t k _) l
  have g2 : Keeps s s2 := ((g1.updSlot _ _).touch _).ageCheck _
  clear_value s2 s1
  exact (ite g2 g2.schedule).final _ _

theorem hit (h : Keeps s t) (k : Nat) (a : Access) : Keeps s (t.hit k a) := by
  unfold State.hit
  extract_lets st
  refine ite (h.hold _ _) ?_
  split
  · exact h.serveRead _ _
  · exact ite (h.hold _ _) (h.acceptWrite _ _ _)

theorem miss (h : Keeps s t) (a : Access) : Keeps s (t.miss a) := by
  unfold State.miss
  split
  · exact ((h.assign _ _ _).hold _ _).schedule
  · split
    · exact ((h.requestWrite _ _ _).hold _ _).schedule
    · exact (h.report _ _).hold _ _

theorem directory (h : Keeps s t) (a : Access) : Keeps s (t.directory a) := by
  unfold State.directory
  split
  · exact h.hit _ _
  · exact ite (h.refuse _ _) (ite (h.refuse _ _) (ite (h.hold _ _) (h.miss _)))

theorem handOff (h : Keeps s t) (a : Access) : Keeps s (t.handOff a) := by
  unfold State.handOff
  split
  · exact h.final _ _
  · exact h.refuse _ _
  · exact h.directory _

theorem checkWrite (h : Keeps s t) (a : Access) : Keeps s (t.checkWrite a) := by
  unfold State.checkWrite
  extract_lets m v
  exact ite (h.dropWrite _) (ite (h.dropWrite _) (ite (h.hold _ _) (h.handOff _)))

theorem refuseEarly (h : Keeps s t) (d : DriveNo) (r : Requester) (c : FaultCode) : Keeps s (t.refuseEarly d r c) :=
  (h.report _ _).final _ _

theorem translate (h : Keeps s t) (d : DriveNo) (v : Nat) (r : Requester) (l : Option Lanes) :
    Keeps s (t.translate d v r l) := by
  unfold State.translate
  split
  · exact h.refuseEarly _ _ _
  · refine ite (h.refuseEarly _ _ _) ?_
    split
    · exact h.refuseEarly _ _ _
    · refine ite (h.refuseEarly _ _ _) ?_
      extract_lets a
      exact ite (h.checkWrite _) (h.handOff _)

/-! ### Track fields -/

theorem awaits (h : Keeps s t) (p : Pass) (q : Option Nat) : Keeps s (t.awaits p q) := h.pass _

theorem missedField (h : Keeps s t) (p : Pass) : Keeps s (t.missedField p) := by
  unfold State.missedField
  repeat' split
  · exact h
  · exact h.verifyResult _ _ _
  · exact h.awaits _ _

theorem fieldOut (h : Keeps s t) (f : Option FieldOut) : Keeps s { t with fieldOut := f } :=
  ⟨h.1, h.2, h.3, h.4, h.5, h.6, h.7, h.8, h.9, h.10⟩

theorem probeBuffer (h : Keeps s t) (b : List Byte) : Keeps s { t with probeBuffer := b } :=
  ⟨h.1, h.2, h.3, h.4, h.5, h.6, h.7, h.8, h.9, h.10⟩

theorem doorSet (h : Keeps s t) (d : DriveNo) (b : Bool) : Keeps s (t.setDoor d b) :=
  ⟨h.1, h.2, h.3, h.4, h.5, h.6, h.7, h.8, h.9, h.10⟩

theorem beginSector (h : Keeps s t) (p : Pass) (k : Nat) (key : Key) (g : Byte) (id : Nat) (size : Fin 4)
    (todo written : List Nat) (q : Nat) : Keeps s (t.beginSector p k key g id size todo written q) := by
  unfold State.beginSector
  refine ite ((h.updSlot _ _).fieldOut _) ?_
  extract_lets p1 s1
  have g : Keeps s s1 := h.pass _
  clear_value s1
  exact ite (g.writeRoundEnd _) g

theorem searchFound (h : Keeps s t) (p : Pass) (a : Option (Fin 4)) (f : IdField) : Keeps s (t.searchFound p a f) := by
  unfold State.searchFound
  extract_lets taken
  clear_value taken
  split
  · exact h.awaits _ _
  · exact h.probeEnd _ _

theorem matched (h : Keeps s t) (p : Pass) (f : IdField) (q : Nat) : Keeps s (t.matched p f q) := by
  unfold State.matched
  split
  · exact ite (h.awaits _ _) h
  · exact ite (h.beginSector _ _ _ _ _ _ _ _ _) h
  · exact ite (h.awaits _ _) h
  · exact h.searchFound _ _ _
  · exact h.awaits _ _
  · exact h

theorem idPasses (h : Keeps s t) (p : Pass) (f : IdField) : Keeps s (t.idPasses p f) := by
  unfold State.idPasses
  split
  · exact h
  · exact h
  · exact h.beginRecovery _
  · exact h.matched _ _ _

theorem idField (h : Keeps s t) (f : IdField) : Keeps s (t.idField f) := by
  unfold State.idField
  split
  · exact h
  · refine ite ?_ h
    extract_lets s1
    have g : Keeps s s1 := h.missedField _
    clear_value s1
    split
    · exact g.idPasses _ _
    · exact g

theorem arrives (h : Keeps s t) (k : Nat) (key : Key) (g : Byte) (size : Fin 4) (q : Nat) (f : DataField) :
    Keeps s (t.arrives k key g size q f) := by
  unfold State.arrives
  refine ite ?_ h
  extract_lets s1
  have g1 : Keeps s s1 := h.store (slotAddr_le t k _) _
  clear_value s1
  exact ite (g1.updSlot _ _) g1

theorem fillField (h : Keeps s t) (f : DataField) : Keeps s (t.fillField f) := by
  unfold State.fillField
  split
  · exact h
  · split
    · refine ite h (ite (h.awaits _ _) (ite h ?_))
      extract_lets p1 s1
      have g : Keeps s s1 := (h.pass _).arrives _ _ _ _ _ _
      clear_value s1
      exact ite g (g.fillEnd _)
    · exact h

theorem yield (h : Keeps s t) (d : DriveNo) (k : Nat) : Keeps s (t.yield d k) := by
  unfold State.yield
  extract_lets s1 s2 x s3 s4
  have g1 : Keeps s s1 := h.updSlot _ _
  have g2 : Keeps s s2 := g1.updOp _ _ _
  have gx : Keeps s x := g2.updDrive _ _
  have g3 : Keeps s s3 := gx.pass _
  have g4 : Keeps s s4 := Keeps.updRecord g3 d (f := fun m => { m with flushSet := m.flushSet.map _ }) (fun _ => rfl)
  clear_value s4 s3 x s2 s1
  exact ite g4 (g4.releaseEvent _)

theorem writeFieldEnds (h : Keeps s t) : Keeps s t.writeFieldEnds := by
  unfold State.writeFieldEnds
  split
  · exact h
  · split
    · split
      · exact h
      · extract_lets todo1 p1 s1
        have g : Keeps s s1 := (h.pass _).updSlot _ _
        clear_value s1
        exact ite (g.discardNow _) (ite (g.yield _ _) (ite (g.writeRoundEnd _) (g.roundCheck _)))
    · exact h

theorem verifyField (h : Keeps s t) (f : DataField) : Keeps s (t.verifyField f) := by
  unfold State.verifyField
  split
  · exact h
  · split
    · exact ite h (ite (h.verifyResult _ _ _) (ite h (h.verifyResult _ _ _)))
    · exact h

theorem labelField (h : Keeps s t) (f : DataField) : Keeps s (t.labelField f) := by
  unfold State.labelField
  split
  · exact h
  · split
    · refine ite h (ite (h.awaits _ _) (ite h ?_))
      extract_lets s1
      have g : Keeps s s1 := h.probeBuffer _
      clear_value s1
      exact ite (g.probeEnd _ _) (g.awaits _ _)
    · exact h

/-! ### Doors, pulses, expiries, resets -/

theorem reopenEnded (h : Keeps s t) (d : DriveNo) : Keeps s (t.reopenEnded d) := by
  unfold State.reopenEnded
  split
  · exact h.updSlot _ _
  · exact h

theorem removal (h : Keeps s t) (d : DriveNo) : Keeps s (t.removal d) := by
  unfold State.removal
  extract_lets s1 chosen
  have g : Keeps s s1 := (h.reopenEnded d).dropOps _ _
  clear_value chosen s1
  split
  · exact ((g.giveChannel _ _).removeDiskette d).startPass _ _
  · exact g.removeDiskette d

theorem doorOpens (h : Keeps s t) (d : DriveNo) : Keeps s (t.doorOpens d) := by
  unfold State.doorOpens
  extract_lets s1
  have g : Keeps s s1 := (h.doorSet _ _).updDrive _ _
  clear_value s1
  exact (ite g (g.removal _)).schedule

theorem doorCloses (h : Keeps s t) (d : DriveNo) : Keeps s (t.doorCloses d) := (h.doorSet _ _).updDrive _ _

theorem pulse (h : Keeps s t) (d : DriveNo) : Keeps s (t.pulse d) := by
  unfold State.pulse
  extract_lets s1
  have g : Keeps s s1 := h.updDrive _ _
  clear_value s1
  refine Keeps.schedule ?_
  split
  · exact ite (g.passPulse _) g
  · exact g

theorem spinUpEnds (h : Keeps s t) (d : DriveNo) : Keeps s (t.spinUpEnds d) := by
  unfold State.spinUpEnds
  extract_lets v s1 s2
  have g1 : Keeps s s1 := h.updDrive _ _
  have g2 : Keeps s s2 := h.updDrive _ _
  clear_value s1 s2
  exact ite (ite (g1.motorStage _) g1) (ite (g2.opFailed _ _) g2)

theorem resetVolume (h : Keeps s t) (d : DriveNo) : Keeps s (t.resetVolume d) := by
  unfold State.resetVolume
  split
  · exact h.unmount _
  all_goals exact h.updRecord d (fun _ => rfl)

theorem slotsMap (h : Keeps s t) (f : Slot → Slot) : Keeps s { t with slots := t.slots.map f } :=
  ⟨h.1, h.2, h.3, h.4, h.5, by simpa using h.6, h.7, h.8, h.9, h.10⟩

theorem resetDrops (h : Keeps s t) : Keeps s t.resetDrops := by
  unfold State.resetDrops
  extract_lets ks s1 s2
  have g1 : Keeps s s1 := foldl (f := fun u d => u.dropOps d (fun o => !o.work.isWrite)) (fun u d => (refl u).dropOps d _) driveNos h
  have g2 : Keeps s s2 := g1.slotsMap _
  clear_value s2 s1 ks
  exact foldl (f := State.fillStopped) (fun u k => (refl u).fillStopped k) ks g2

theorem resetWrites (h : Keeps s t) : Keeps s t.resetWrites := by
  unfold State.resetWrites
  exact h.writesFor t.resetDirty .reset .urgent

end Keeps

/-! ### Bus cycles and Control Block writes -/

theorem State.apertureCycle_effect {i : Instr} (s : State) (w : Nat) (low : Bool) (r : Requester) (l : Option Lanes) :
    Effect i s (s.apertureCycle w low r l) := by
  unfold State.apertureCycle
  split
  · exact .answer _ rfl
  · rename_i hp; exact .held r (.inl hp) rfl
  · rename_i n hp; exact .held r (.inr ⟨n, hp⟩) rfl
  · exact .ofEvent ((Keeps.refl _).translate _ _ _ _)

theorem State.unpopulated_effect {i : Instr} (s : State) (b : Bool) (r : Requester) : Effect i s (s.unpopulated b r) :=
  .ofEvent (((Keeps.refl _).reportGlobal _).answered _)

theorem State.cbWrite_effect {i : Instr} (s : State) {o : Nat} (ho : o % 2 = 0 ∧ o < 512) (l : Lanes) (r : Requester) :
    Effect i s (s.cbWrite o l r) := by
  unfold State.cbWrite
  split
  · rename_i hw
    have hk : Takes s (if r = 0 then s.bumped.putWord o l else s.bumped) := by
      split
      · exact (Keeps.bumped s).takes.putWord o l
      · exact (Keeps.bumped s).takes
    exact .host o l _ ho (by simpa [State.watching] using hw) hk rfl
  · exact .answer _ rfl

theorem State.cbCycle_effect {i : Instr} (s : State) {o : Nat} (ho : o % 2 = 0 ∧ o < 512) (l : Lanes) (r : Requester) :
    Effect i s (s.cbCycle o l r) := .ite (s.cbWrite_effect ho l r) (.answer _ rfl)

theorem recordOffset_lt (d : DriveNo) : recordOffset d % 2 = 0 ∧ recordOffset d < 0x140 := by
  unfold recordOffset; have := d.isLt; omega

theorem State.requestCycle_effect {i : Instr} (s : State) (d : DriveNo) (b : Byte) (c : Option Byte) (r : Requester) :
    Effect i s (s.requestCycle d b c r) := s.cbCycle_effect (by have := recordOffset_lt d; omega) _ _

theorem State.readCycle_effect {i : Instr} (s : State) (a : Address) (low high : Bool) (r : Requester) :
    Effect i s (s.readCycle a low high r) := by
  unfold State.readCycle
  refine .ite ?_ (.answer _ rfl)
  split
  · exact .answer _ rfl
  · exact .answer _ rfl
  · exact s.unpopulated_effect _ _
  · exact s.apertureCycle_effect _ _ _ _

/-- A word address of the Control Block class is an even offset of the block (R1, R6). -/
theorem Straps.cb_offset {p : Straps} {a : Address} (h : p.classify (wordAddress a) = .controlBlock) :
    (wordAddress a - p.cbBase) % 2 = 0 ∧ wordAddress a - p.cbBase < 512 ∧ p.cbBase ≤ wordAddress a := by
  unfold Straps.classify at h
  split at h
  · cases h
  · split at h
    · cases h
    · split at h
      · rename_i hc
        have hb : p.cbBase % 2 = 0 := by unfold Straps.cbBase; omega
        have hw : wordAddress a % 2 = 0 := by unfold wordAddress; omega
        omega
      · cases h

theorem State.writeCycle_effect {i : Instr} (hi : Instr.mayStore i) (s : State) (a : Address) (l : Lanes) (r : Requester) :
    Effect i s (s.writeCycle a l r) := by
  unfold State.writeCycle
  refine .ite ?_ (.answer _ rfl)
  split
  · rename_i hc; exact .dram a l hc hi rfl
  · rename_i hc
    have := Straps.cb_offset hc
    exact s.cbWrite_effect ⟨this.1, this.2.1⟩ _ _
  · exact s.unpopulated_effect _ _
  · exact s.apertureCycle_effect _ _ _ _

theorem State.busCycle_effect {i : Instr} (hi : Instr.mayStore i) (s : State) (a : Address) (op : BusOp) (r : Requester) :
    Effect i s (s.busCycle a op r) := by
  cases op
  · exact s.readCycle_effect _ _ _ _
  · exact s.writeCycle_effect hi _ _ _

/-- Every command ends in a next state, by one of the ways of Effect. -/
theorem exec_effect (i : Instr) (s : State) : ∃ t, exec i s = .next t ∧ Effect i s t := by
  have k := Keeps.refl s.bumped
  cases i with
  | noEnableCycle a d r => exact ⟨_, rfl, .answer _ rfl⟩
  | ordinaryCycle a op r => exact ⟨_, rfl, s.busCycle_effect (.inl ⟨_, _, _, rfl⟩) _ _ _⟩
  | unpopulatedCycle a op r => exact ⟨_, rfl, s.busCycle_effect (.inr (.inl ⟨_, _, _, rfl⟩)) _ _ _⟩
  | apertureRead a lo hi r => exact ⟨_, rfl, s.readCycle_effect _ _ _ _⟩
  | apertureWrite a l r => exact ⟨_, rfl, s.writeCycle_effect (.inr (.inr ⟨_, _, _, rfl⟩)) _ _ _⟩
  | mount d c r => exact ⟨_, rfl, s.requestCycle_effect _ _ _ _⟩
  | flush d c r => exact ⟨_, rfl, s.requestCycle_effect _ _ _ _⟩
  | freeze d c r => exact ⟨_, rfl, s.requestCycle_effect _ _ _ _⟩
  | thaw d c r => exact ⟨_, rfl, s.requestCycle_effect _ _ _ _⟩
  | release d c r => exact ⟨_, rfl, s.requestCycle_effect _ _ _ _⟩
  | reclaim d c r => exact ⟨_, rfl, s.requestCycle_effect _ _ _ _⟩
  | discard d c r => exact ⟨_, rfl, s.requestCycle_effect _ _ _ _⟩
  | unknownRequest d v c r => exact ⟨_, rfl, s.requestCycle_effect _ _ _ _⟩
  | outcomeClear d lo hi r => exact ⟨_, rfl, s.cbCycle_effect (by have := recordOffset_lt d; omega) _ _⟩
  | faultRecordClear f lo hi r =>
    exact ⟨_, rfl, s.cbCycle_effect (by unfold faultOffset; have := f.isLt; omega) _ _⟩
  | settingsWrite p l r => exact ⟨_, rfl, s.cbCycle_effect (by have := p.isLt; omega) _ _⟩
  | classTableWrite p l r => exact ⟨_, rfl, s.cbCycle_effect (by have := p.isLt; omega) _ _⟩
  | writeAllowWrite d v q r => exact ⟨_, rfl, s.cbCycle_effect (by have := recordOffset_lt d; omega) _ _⟩
  | guardFieldWrite d g l r =>
    exact ⟨_, rfl, s.cbCycle_effect (by have := recordOffset_lt d; cases g <;> simp only [guardOffset] <;> omega) _ _⟩
  | guardLockWrite d v c r => exact ⟨_, rfl, s.cbCycle_effect (by have := recordOffset_lt d; omega) _ _⟩
  | controlBlockWrite w l r => exact ⟨_, rfl, s.cbCycle_effect (by have := w.isLt; omega) _ _⟩
  | powerOnReset l d p => exact ⟨_, rfl, .powerOn _ _ _ rfl rfl⟩
  | defaultWritingEnd =>
    refine ⟨_, rfl, ?_⟩
    unfold State.defaultWritingEnds
    split
    · rename_i n hp; exact .writing n (.inl hp) rfl
    · exact .same rfl
  | busReset =>
    refine ⟨_, rfl, ?_⟩
    unfold State.busReset
    split
    · rename_i hw
      refine .reset _ (by simpa [State.watching] using hw) ?_ rfl
      exact (Keeps.foldl (f := State.resetVolume) (fun u d => (Keeps.refl u).resetVolume d) driveNos
        (Keeps.refl _)).resetDrops.resetWrites.schedule
    · exact .same rfl
  | resetFlushRewriteEnd =>
    refine ⟨_, rfl, ?_⟩
    unfold State.rewriteEnds
    split
    · rename_i n hp; exact .writing n (.inr hp) rfl
    · exact .same rfl
  | doorOpen d p => exact ⟨_, rfl, .ite (.ofEvent ((k.sense p).doorOpens d)) (.same rfl)⟩
  | doorClose d p => exact ⟨_, rfl, .ite (.ofEvent ((k.sense p).doorCloses d)) (.same rfl)⟩
  | indexPulse d p => exact ⟨_, rfl, .ite (.ofEvent ((k.sense p).pulse d)) (.same rfl)⟩
  | indexWatchExpiry d p =>
    refine ⟨_, rfl, ?_⟩
    unfold State.watchExpires
    split
    · exact .ofEvent (((k.advance _).sense p).opFailed _ _).schedule
    · exact .same rfl
  | spinUpExpiry d p =>
    refine ⟨_, rfl, ?_⟩
    unfold State.spinUpExpires
    split
    · exact .ofEvent (((k.advance _).sense p).spinUpEnds _).schedule
    · exact .same rfl
  | headUnloadExpiry d =>
    refine ⟨_, rfl, ?_⟩
    unfold State.unloadExpires
    split
    · exact .ofEvent ((k.advance _).updDrive _ _)
    · exact .same rfl
  | motorIdleExpiry d =>
    refine ⟨_, rfl, ?_⟩
    unfold State.idleExpires
    split
    · exact .ofEvent ((k.advance _).updDrive _ _)
    · exact .same rfl
  | waiterExpiry r =>
    refine ⟨_, rfl, ?_⟩
    unfold State.waiterExpires
    split
    · exact .ofEvent ((k.advance _).setWaiter _ _)
    · exact .same rfl
  | promotion d slot =>
    refine ⟨_, rfl, ?_⟩
    unfold State.promotes
    split
    · split
      · exact .ofEvent ((k.advance _).updOp _ _ _)
      · exact .same rfl
    · exact .same rfl
  | ageWriteBack n =>
    refine ⟨_, rfl, ?_⟩
    unfold State.ages
    split
    · exact .ofEvent ((k.advance _).requestWrite _ _ _).schedule
    · exact .same rfl
  | stepComplete d p =>
    refine ⟨_, rfl, ?_⟩
    split
    · exact .ofEvent (((k.advance _).sense p).stepDone _ _).schedule
    · exact .same rfl
  | settleEnd d p =>
    refine ⟨_, rfl, ?_⟩
    split
    · exact .ofEvent (((k.advance _).sense p).settled _).schedule
    · exact .same rfl
  | idFieldRead f p => exact ⟨_, rfl, .ofEvent ((k.sense p).idField f).schedule⟩
  | fillDataFieldRead f p => exact ⟨_, rfl, .ofEvent ((k.sense p).fillField f).schedule⟩
  | writeFieldEnd p => exact ⟨_, rfl, .ofEvent ((k.sense p).writeFieldEnds).schedule⟩
  | verifyDataFieldRead f p => exact ⟨_, rfl, .ofEvent ((k.sense p).verifyField f).schedule⟩
  | labelDataFieldRead f p => exact ⟨_, rfl, .ofEvent ((k.sense p).labelField f).schedule⟩

end Sys2Proof.Machine
end

