-- ==== Sys2Proof/Laws/Commands.lean ====
section
/-! SUPPORT. Each command as the operation of its row, so that no proof unfolds the dispatch; and the bus cycles by class. -/

namespace Sys2Proof.Machine

theorem exec_noEnableCycle (addr : Address) (data : Option Word) (r : Requester) (s : State) :
    exec (.noEnableCycle addr data r) s = .next (s.noEnable data.isSome) := rfl

theorem exec_ordinaryCycle (addr : Address) (op : BusOp) (r : Requester) (s : State) :
    exec (.ordinaryCycle addr op r) s = .next (s.busCycle addr op r) := rfl

theorem exec_unpopulatedCycle (addr : Address) (op : BusOp) (r : Requester) (s : State) :
    exec (.unpopulatedCycle addr op r) s = .next (s.busCycle addr op r) := rfl

theorem exec_apertureRead (addr : Address) (low : Bool) (high : Bool) (r : Requester) (s : State) :
    exec (.apertureRead addr low high r) s = .next (s.readCycle addr low high r) := rfl

theorem exec_apertureWrite (addr : Address) (lanes : Lanes) (r : Requester) (s : State) :
    exec (.apertureWrite addr lanes r) s = .next (s.writeCycle addr lanes r) := rfl

theorem exec_mount (d : DriveNo) (cls : Option Byte) (r : Requester) (s : State) :
    exec (.mount d cls r) s = .next (s.requestCycle d Request.mount.byte cls r) := rfl

theorem exec_flush (d : DriveNo) (cls : Option Byte) (r : Requester) (s : State) :
    exec (.flush d cls r) s = .next (s.requestCycle d Request.flush.byte cls r) := rfl

theorem exec_freeze (d : DriveNo) (cls : Option Byte) (r : Requester) (s : State) :
    exec (.freeze d cls r) s = .next (s.requestCycle d Request.freeze.byte cls r) := rfl

theorem exec_thaw (d : DriveNo) (cls : Option Byte) (r : Requester) (s : State) :
    exec (.thaw d cls r) s = .next (s.requestCycle d Request.thaw.byte cls r) := rfl

theorem exec_release (d : DriveNo) (cls : Option Byte) (r : Requester) (s : State) :
    exec (.release d cls r) s = .next (s.requestCycle d Request.release.byte cls r) := rfl

theorem exec_reclaim (d : DriveNo) (cls : Option Byte) (r : Requester) (s : State) :
    exec (.reclaim d cls r) s = .next (s.requestCycle d Request.reclaim.byte cls r) := rfl

theorem exec_discard (d : DriveNo) (cls : Option Byte) (r : Requester) (s : State) :
    exec (.discard d cls r) s = .next (s.requestCycle d Request.discard.byte cls r) := rfl

theorem exec_unknownRequest (d : DriveNo) (value : Byte) (cls : Option Byte) (r : Requester) (s : State) :
    exec (.unknownRequest d value cls r) s = .next (s.requestCycle d value cls r) := rfl

theorem exec_outcomeClear (d : DriveNo) (low : Bool) (high : Bool) (r : Requester) (s : State) :
    exec (.outcomeClear d low high r) s = .next (s.cbCycle (recordOffset d + 0x12) (zeroLanes low high) r) := rfl

theorem exec_faultRecordClear (f : Fin 5) (low : Bool) (high : Bool) (r : Requester) (s : State) :
    exec (.faultRecordClear f low high r) s = .next (s.cbCycle (faultOffset f) (zeroLanes low high) r) := rfl

theorem exec_settingsWrite (pair : Fin 4) (lanes : Lanes) (r : Requester) (s : State) :
    exec (.settingsWrite pair lanes r) s = .next (s.cbCycle (0x10 + 2 * pair.val) lanes r) := rfl

theorem exec_classTableWrite (pair : Fin 4) (lanes : Lanes) (r : Requester) (s : State) :
    exec (.classTableWrite pair lanes r) s = .next (s.cbCycle (0x20 + 2 * pair.val) lanes r) := rfl

theorem exec_writeAllowWrite (d : DriveNo) (value : Byte) (retry : Option Byte) (r : Requester) (s : State) :
    exec (.writeAllowWrite d value retry r) s = .next (s.cbCycle (recordOffset d + 0x08) { lo := retry, hi := some value } r) := rfl

theorem exec_guardFieldWrite (d : DriveNo) (field : GuardWord) (lanes : Lanes) (r : Requester) (s : State) :
    exec (.guardFieldWrite d field lanes r) s = .next (s.cbCycle (recordOffset d + guardOffset field) lanes r) := rfl

theorem exec_guardLockWrite (d : DriveNo) (value : Byte) (complement : Option Byte) (r : Requester) (s : State) :
    exec (.guardLockWrite d value complement r) s = .next (s.cbCycle (recordOffset d + 0x0C) { lo := complement, hi := some value } r) := rfl

theorem exec_controlBlockWrite (wordIndex : Fin 256) (lanes : Lanes) (r : Requester) (s : State) :
    exec (.controlBlockWrite wordIndex lanes r) s = .next (s.cbCycle (2 * wordIndex.val) lanes r) := rfl

theorem exec_powerOnReset (straps : BitVec 9) (doors : BitVec 4) (pins : Pins) (s : State) :
    exec (.powerOnReset straps doors pins) s = .next (s.powerOn straps doors pins) := rfl

theorem exec_defaultWritingEnd  (s : State) :
    exec (.defaultWritingEnd) s = .next s.defaultWritingEnds := rfl

theorem exec_busReset  (s : State) :
    exec (.busReset) s = .next s.busReset := rfl

theorem exec_resetFlushRewriteEnd  (s : State) :
    exec (.resetFlushRewriteEnd) s = .next s.rewriteEnds := rfl

theorem exec_doorOpen (d : DriveNo) (pins : Pins) (s : State) :
    exec (.doorOpen d pins) s = .next (if s.sensed d then s.event (fun t => (t.sense pins).doorOpens d) else s) := rfl

theorem exec_doorClose (d : DriveNo) (pins : Pins) (s : State) :
    exec (.doorClose d pins) s = .next (if s.sensed d ∧ s.drives[d].media = .noMedia then s.event (fun t => (t.sense pins).doorCloses d) else s) := rfl

theorem exec_indexPulse (d : DriveNo) (pins : Pins) (s : State) :
    exec (.indexPulse d pins) s = .next (if s.sensed d then s.event (fun t => (t.sense pins).pulse d) else s) := rfl

theorem exec_indexWatchExpiry (d : DriveNo) (pins : Pins) (s : State) :
    exec (.indexWatchExpiry d pins) s = .next (s.watchExpires d pins) := rfl

theorem exec_spinUpExpiry (d : DriveNo) (pins : Pins) (s : State) :
    exec (.spinUpExpiry d pins) s = .next (s.spinUpExpires d pins) := rfl

theorem exec_headUnloadExpiry (d : DriveNo) (s : State) :
    exec (.headUnloadExpiry d) s = .next (s.unloadExpires d) := rfl

theorem exec_motorIdleExpiry (d : DriveNo) (s : State) :
    exec (.motorIdleExpiry d) s = .next (s.idleExpires d) := rfl

theorem exec_waiterExpiry (r : Requester) (s : State) :
    exec (.waiterExpiry r) s = .next (s.waiterExpires r) := rfl

theorem exec_promotion (d : DriveNo) (slot : Option Nat) (s : State) :
    exec (.promotion d slot) s = .next (s.promotes d slot) := rfl

theorem exec_ageWriteBack (slot : Nat) (s : State) :
    exec (.ageWriteBack slot) s = .next (s.ages slot) := rfl

theorem exec_stepComplete (d : DriveNo) (pins : Pins) (s : State) :
    exec (.stepComplete d pins) s = .next (match s.drives[d].step with
    | some u => s.event (fun t => (((t.advance u.due).sense pins).stepDone d u).schedule)
    | none => s) := rfl

theorem exec_settleEnd (d : DriveNo) (pins : Pins) (s : State) :
    exec (.settleEnd d pins) s = .next (match s.drives[d].move with
    | .settling due => s.event (fun t => (((t.advance due).sense pins).settled d).schedule)
    | _ => s) := rfl

theorem exec_idFieldRead (field : IdField) (pins : Pins) (s : State) :
    exec (.idFieldRead field pins) s = .next (s.event (fun t => ((t.sense pins).idField field).schedule)) := rfl

theorem exec_fillDataFieldRead (field : DataField) (pins : Pins) (s : State) :
    exec (.fillDataFieldRead field pins) s = .next (s.event (fun t => ((t.sense pins).fillField field).schedule)) := rfl

theorem exec_writeFieldEnd (pins : Pins) (s : State) :
    exec (.writeFieldEnd pins) s = .next (s.event (fun t => ((t.sense pins).writeFieldEnds).schedule)) := rfl

theorem exec_verifyDataFieldRead (field : DataField) (pins : Pins) (s : State) :
    exec (.verifyDataFieldRead field pins) s = .next (s.event (fun t => ((t.sense pins).verifyField field).schedule)) := rfl

theorem exec_labelDataFieldRead (field : DataField) (pins : Pins) (s : State) :
    exec (.labelDataFieldRead field pins) s = .next (s.event (fun t => ((t.sense pins).labelField field).schedule)) := rfl

/-! ### Bus cycles by class -/

theorem State.busCycle_read (s : State) (a : Address) (low high : Bool) (r : Requester) :
    s.busCycle a (.read low high) r = s.readCycle a low high r := rfl

theorem State.busCycle_write (s : State) (a : Address) (l : Lanes) (r : Requester) :
    s.busCycle a (.write l) r = s.writeCycle a l r := rfl

theorem State.readCycle_aperture {s : State} {a : Address} {low high : Bool} {r : Requester} (hb : (low || high) = true)
    (ha : Config.apertureBase ≤ wordAddress a) :
    s.readCycle a low high r = s.apertureCycle (wordAddress a) low r none := by
  have hc : s.straps.classify (wordAddress a) = .aperture := by unfold Straps.classify; rw [if_pos ha]
  unfold State.readCycle; rw [if_pos hb, hc]

theorem State.writeCycle_aperture {s : State} {a : Address} {l : Lanes} {r : Requester} (hl : l.enabled = true)
    (ha : Config.apertureBase ≤ wordAddress a) :
    s.writeCycle a l r = s.apertureCycle (wordAddress a) l.lo.isSome r (some l) := by
  have hc : s.straps.classify (wordAddress a) = .aperture := by unfold Straps.classify; rw [if_pos ha]
  unfold State.writeCycle; rw [if_pos hl, hc]

theorem State.apertureCycle_running {s : State} (h : s.phase = .running) (w : Nat) (low : Bool) (r : Requester)
    (l : Option Lanes) :
    s.apertureCycle w low r l = s.event (fun t => t.translate (windowDrive w) (volumeOffset (cycleAddress w low)) r l) := by
  unfold State.apertureCycle; rw [h]

theorem State.cbCycle_enabled {s : State} {l : Lanes} (hl : l.enabled = true) (o : Nat) (r : Requester) :
    s.cbCycle o l r = s.cbWrite o l r := by unfold State.cbCycle; rw [if_pos hl]

end Sys2Proof.Machine
end

