-- ==== Sys2Proof/Laws/Schedule.lean ====
section
/-! SUPPORT. When an event leaves nothing to be done: the schedule of a state in which drives rest or wait. -/

namespace Sys2Proof.Machine

theorem Vector.ext_fin {α : Type} {n : Nat} {v w : Vector α n} (h : ∀ i : Fin n, v[i] = w[i]) : v = w :=
  Vector.ext fun i hi => h ⟨i, hi⟩

theorem driveNos_all {q : DriveNo → Prop} : (∀ d ∈ driveNos, q d) ↔ ∀ d, q d := by
  constructor
  · intro h d; exact h d (by revert d; decide)
  · intro h d _; exact h d

/-- Nothing is left to be done exactly when no volume, drain, drive or channel has something to do. -/
theorem State.nextStep_eq_none (s : State) :
    s.nextStep = none ↔ (∀ d, s.volumeStep d = none) ∧ s.drainStep = none ∧ (∀ d, s.selectStep d = none) ∧ s.arbiterStep = none := by
  unfold State.nextStep
  simp only [Option.orElse_eq_orElse, Option.orElse_eq_or, Option.or_eq_none_iff, List.findSome?_eq_none_iff, driveNos_all]

theorem State.volumeStep_none {s : State} {d : DriveNo} (h : s.NoDrain d) : s.volumeStep d = none := by
  unfold State.volumeStep
  split
  · rename_i hv; exact absurd hv h.1
  · rename_i hv; exact absurd hv h.2
  · rfl

theorem State.drainStep_none {s : State} (h : s.phase = .running) : s.drainStep = none := by
  unfold State.drainStep
  rw [if_neg (by rw [h]; simp)]

theorem Drive.currentOp_nil {v : Drive} (h : v.queue = []) : v.currentOp = none := by
  unfold Drive.currentOp; rw [h]; rfl

theorem Drive.choice_nil {v : Drive} (h : v.queue = []) : v.choice = none := by
  unfold Drive.choice Drive.candidates
  rw [h]; rfl

theorem State.selectStep_nil {s : State} {d : DriveNo} (h : s.drives[d].queue = []) : s.selectStep d = none := by
  unfold State.selectStep
  dsimp only
  rw [Drive.currentOp_nil h, Drive.choice_nil h]

theorem State.selectStep_current {s : State} {d : DriveNo} {o : Op} (h : s.drives[d].currentOp = some o) :
    s.selectStep d = none := by
  unfold State.selectStep
  dsimp only
  rw [h]

theorem State.arbiterStep_none {s : State} (h : ∀ d : DriveNo, s.drives[d].positionedOp = none) : s.arbiterStep = none := by
  unfold State.arbiterStep
  split
  · rfl
  · have : s.arbiterChoice = none := by
      unfold State.arbiterChoice
      rw [show driveNos.filterMap (fun d : DriveNo => (s.drives[d].positionedOp).map (fun x => (d, x))) = [] from ?_]
      · rfl
      · rw [List.filterMap_eq_nil_iff]; intro d _; rw [h d]; rfl
    rw [this]; rfl

theorem State.arbiterStep_held {s : State} (h : s.channelHeld = true) : s.arbiterStep = none := by
  unfold State.arbiterStep; rw [if_pos h]

theorem State.channelHeld_of {s : State} {d : DriveNo} {o : Op} (h : o ∈ s.drives[d].queue) (ho : o.phase = .transferring) :
    s.channelHeld = true := by
  unfold State.channelHeld
  rw [List.any_eq_true]
  refine ⟨s.drives[d], ?_, ?_⟩
  · rw [Vector.mem_toList_iff]; exact Vector.getElem_mem _
  · rw [List.any_eq_true]; exact ⟨o, h, by simpa using ho⟩

theorem Drive.positionedOp_of_none {v : Drive} (h : v.currentOp = none) : v.positionedOp = none := by
  unfold Drive.positionedOp; rw [h]

/-- A state with nothing left to be done is scheduled by the notices alone. -/
theorem State.schedule_none {s : State} (h : s.nextStep = none) : s.schedule = s.notices := by
  unfold State.schedule Config.eventFuel
  rw [show (1024 : Nat) = 1023 + 1 from rfl, State.settleLoop, h]

/-- One thing done first. -/
theorem State.schedule_step {s t : State} (h : s.nextStep = some t) (ht : t.nextStep = none) : s.schedule = t.notices := by
  unfold State.schedule Config.eventFuel
  rw [show (1024 : Nat) = 1023 + 1 from rfl, State.settleLoop, h]
  dsimp only
  rw [show (1023 : Nat) = 1022 + 1 from rfl, State.settleLoop, ht]

/-- Two things done first. -/
theorem State.schedule_step2 {s t u : State} (h : s.nextStep = some t) (ht : t.nextStep = some u) (hu : u.nextStep = none) :
    s.schedule = u.notices := by
  unfold State.schedule Config.eventFuel
  rw [show (1024 : Nat) = 1023 + 1 from rfl, State.settleLoop, h]
  dsimp only
  rw [show (1023 : Nat) = 1022 + 1 from rfl, State.settleLoop, ht]
  dsimp only
  rw [show (1022 : Nat) = 1021 + 1 from rfl, State.settleLoop, hu]

/-- A steady drive is left as it is by the notices. -/
theorem Drive.Steady.notice {v : Drive} (h : v.Steady) (now delay : Nat) :
    (if v.current && v.currentOp.isNone then v.lose now delay else v).watchAt now = v := by
  obtain ⟨-, hc, hw⟩ := h
  have h1 : (v.current && v.currentOp.isNone) = false := by
    cases ho : v.currentOp with
    | none =>
      have : v.current ≠ true := fun e => hc.mp e ho
      simp [this]
    | some o => simp
  rw [h1, if_neg (by simp)]
  unfold Drive.watchAt
  cases hv : v.watch with
  | none =>
    have : ¬ (v.atSpeed = true ∧ v.currentOp ≠ none) := fun e => hw.mpr e hv
    have h2 : (v.atSpeed && v.currentOp.isSome) = false := by
      cases ha : v.atSpeed <;> cases ho : v.currentOp <;> simp_all
    rw [h2, if_neg (by simp), ← hv]
  | some w =>
    obtain ⟨ha, ho⟩ := hw.mp (by rw [hv]; simp)
    have h2 : (v.atSpeed && v.currentOp.isSome) = true := by
      rw [ha]; cases hq : v.currentOp <;> simp_all
    rw [h2, if_pos rfl, Option.getD_some, ← hv]

theorem Drive.Resting.steady {v : Drive} (h : v.Resting) : v.Steady := by
  obtain ⟨hq, hc, hw⟩ := h
  exact ⟨fun _ => hq, by simp [hc, Drive.currentOp_nil hq], by simp [hw, Drive.currentOp_nil hq]⟩

/-- A drive with an operation queue that is empty or has a current operation is given no other. -/
theorem State.selectStep_steady {s : State} {d : DriveNo} (h : s.drives[d].currentOp = none → s.drives[d].queue = []) :
    s.selectStep d = none := by
  cases ho : s.drives[d].currentOp with
  | none => exact State.selectStep_nil (h ho)
  | some o => exact State.selectStep_current ho

theorem State.Steady.nextStep {s : State} (h : s.Steady) : s.nextStep = none :=
  s.nextStep_eq_none.mpr ⟨fun d => State.volumeStep_none (h.2.1 d).2, State.drainStep_none h.1,
    fun d => State.selectStep_steady (h.2.1 d).1.1,
    h.2.2.elim State.arbiterStep_held State.arbiterStep_none⟩

/-- The notices change nothing where every drive is steady. -/
theorem State.notices_steady {s : State} (h : ∀ d : DriveNo, s.drives[d].Steady) : s.notices = s := by
  unfold State.notices
  have : updAll s.drives (fun v =>
      (if v.current && v.currentOp.isNone then v.lose s.now.ms s.settings.headUnloadMs else v).watchAt s.now.ms) = s.drives :=
    Vector.ext_fin fun i => by rw [updAll_get]; exact (h i).notice _ _
  rw [this]

/-- In a steady state the schedule changes nothing. -/
theorem State.Steady.schedule {s : State} (h : s.Steady) : s.schedule = s := by
  rw [State.schedule_none h.nextStep]
  exact State.notices_steady fun d => (h.2.1 d).1

theorem State.Idle.steady {s : State} (h : s.Idle) : s.Steady :=
  ⟨h.1, fun d => ⟨(h.2 d).1.steady, (h.2 d).2⟩,
    .inr fun d => Drive.positionedOp_of_none (Drive.currentOp_nil (h.2 d).1.1)⟩

/-- In an idle state the schedule changes nothing. -/
theorem State.Idle.schedule {s : State} (h : s.Idle) : s.schedule = s := h.steady.schedule

end Sys2Proof.Machine
end

