-- ==== Sys2Proof/Laws/Stores.lean ====
section
/-! SUPPORT. What an event and a Control Block write leave in DRAM, and the state around it. -/

namespace Sys2Proof.Machine

theorem State.finish_withMem {s u : State} (h : drainEnded s u = false) : s.finish u = u.withMem (s.eventMem u) := by
  rcases State.finish_cases s u with ⟨-, g⟩ | ⟨g, -⟩
  · exact g
  · rw [g] at h; exact absurd h (by simp)

theorem State.eq_withMem {t u : State} {m : List Host.Cell} (h : t = u.withMem m) : t = { u with mem := t.mem } := by
  rw [h]; rfl

theorem State.shown_withMem (u : State) (m : List Host.Cell) (o : Nat) :
    (u.withMem m).shown o = Memory.read m (u.straps.cbBase + o) := rfl

/-- What stands in the block after an event. -/
theorem State.shown_finish {s u : State} (hd : drainEnded s u = false)
    (hm : ∀ o, o < 512 → u.shown o = s.shown o) (o : Nat) (ho : o < 512) :
    (s.finish u).shown o = s.refreshed (s.finish u) o := by
  have hf := State.finish_withMem hd
  unfold State.refreshed
  rw [hf, State.cbByte_withMem, State.cbChanged_withMem, State.shown_withMem, State.read_eventMem, ← hm o ho]
  rfl

/-- The state after an event that keeps the straps, the phase and DRAM: the effects, and the part's stores. -/
theorem State.finish_stores {s u : State} (hp : u.phase = s.phase) (hs : u.straps = s.straps) (hm : u.mem = s.mem) :
    s.finish u = { u with mem := (s.finish u).mem } ∧ s.Stores (s.finish u) := by
  have hd := drainEnded_of_phase hp
  have hf := State.finish_withMem hd
  refine ⟨State.eq_withMem hf, ?_, ?_⟩
  · intro a ha
    rw [State.finish_mem, State.read_eventMem_outside, hm]
    unfold State.inControlBlock at ha
    rw [hs]; unfold cbEnd; omega
  · exact State.shown_finish hd (fun o _ => by unfold State.shown; rw [hm, hs])

/-- The same for an event whose effects reach DRAM outside the block. -/
theorem State.finish_outside {s u : State} (hp : u.phase = s.phase) (hs : u.straps = s.straps)
    (hm : ∀ a, s.inControlBlock a → Memory.read u.mem a = Memory.read s.mem a) :
    s.finish u = { u with mem := (s.finish u).mem } ∧
      (∀ a, ¬ s.inControlBlock a → Memory.read (s.finish u).mem a = Memory.read u.mem a) ∧
      ∀ o, o < 512 → (s.finish u).shown o = s.refreshed (s.finish u) o := by
  have hd := drainEnded_of_phase hp
  have hf := State.finish_withMem hd
  refine ⟨State.eq_withMem hf, ?_, ?_⟩
  · intro a ha
    rw [State.finish_mem, State.read_eventMem_outside]
    unfold State.inControlBlock at ha
    rw [hs]; unfold cbEnd; omega
  · refine State.shown_finish hd fun o ho => ?_
    unfold State.shown
    rw [hs]
    exact hm _ ⟨by omega, by omega⟩

/-- An event that keeps the straps, the phase and DRAM, as a whole. -/
theorem State.event_stores {s : State} {f : State → State} {u : State} (hu : f s.bumped = u) (hp : u.phase = s.phase)
    (hs : u.straps = s.straps) (hm : u.mem = s.mem) :
    ∃ t, s.event f = t ∧ t = { u with mem := t.mem } ∧ s.Stores t := by
  have := State.finish_stores hp hs hm
  exact ⟨_, by rw [State.event_eq, hu], this.1, this.2⟩

/-- The DRAM after the enabled bytes of a Control Block write have landed. -/
theorem State.landed_eq (u : State) (o : Nat) (l : Lanes) :
    ∃ m, u.landed o l = { u with mem := m, answer := some (.done none) } ∧
      (∀ a, a ≠ u.straps.cbBase + o → a ≠ u.straps.cbBase + o + 1 → Memory.read m a = Memory.read u.mem a) ∧
      Memory.read m (u.straps.cbBase + o) = (match l.lo with
        | some b => (u.cbByte o).getD b
        | none => Memory.read u.mem (u.straps.cbBase + o)) ∧
      Memory.read m (u.straps.cbBase + o + 1) = (match l.hi with
        | some b => (u.cbByte (o + 1)).getD b
        | none => Memory.read u.mem (u.straps.cbBase + o + 1)) := by
  obtain ⟨lo, hi⟩ := l
  have hc : ∀ m x, ({ u with mem := m } : State).cbByte x = u.cbByte x := fun m x => State.cbByte_withMem u m x
  cases lo with
  | none =>
    cases hi with
    | none => exact ⟨u.mem, rfl, fun _ _ _ => rfl, rfl, rfl⟩
    | some b =>
      refine ⟨Memory.store u.mem (u.straps.cbBase + (o + 1)) [(u.cbByte (o + 1)).getD b], rfl, ?_, ?_, ?_⟩
      · intro a _ h2; rw [Memory.read_store_byte, if_neg (by omega)]
      · dsimp only; rw [Memory.read_store_byte, if_neg (by omega)]
      · dsimp only; rw [Memory.read_store_byte, if_pos (by omega)]
  | some c =>
    cases hi with
    | none =>
      refine ⟨Memory.store u.mem (u.straps.cbBase + o) [(u.cbByte o).getD c], rfl, ?_, ?_, ?_⟩
      · intro a h1 _; rw [Memory.read_store_byte, if_neg (by omega)]
      · dsimp only; rw [Memory.read_store_byte, if_pos (by omega)]
      · dsimp only; rw [Memory.read_store_byte, if_neg (by omega)]
    | some b =>
      refine ⟨Memory.store (Memory.store u.mem (u.straps.cbBase + o) [(u.cbByte o).getD c]) (u.straps.cbBase + (o + 1))
        [(u.cbByte (o + 1)).getD b], ?_, ?_, ?_, ?_⟩
      · show ((State.landByte (State.landByte u o c) (o + 1) b).answered _) = _
        unfold State.landByte State.answered
        dsimp only
        rw [hc (Memory.store u.mem (u.straps.cbBase + o) [(u.cbByte o).getD c])]
      · intro a h1 h2; rw [Memory.read_store_byte, if_neg (by omega), Memory.read_store_byte, if_neg (by omega)]
      · dsimp only; rw [Memory.read_store_byte, if_neg (by omega), Memory.read_store_byte, if_pos (by omega)]
      · dsimp only; rw [Memory.read_store_byte, if_pos (by omega)]

/-- A Control Block write while watching runs, when what its owners do keeps the straps, the phase and DRAM. -/
theorem State.cbWrite_lands {s : State} {o : Nat} {l : Lanes} {r : Requester} {u : State} (hw : s.phase = .running)
    (ho : o + 1 < 512) (hu : (if r = 0 then s.bumped.putWord o l else s.bumped) = u) (hp : u.phase = .running)
    (hs : u.straps = s.straps) (hm : u.mem = s.mem) :
    ∃ t, s.cbWrite o l r = t ∧ t = { u with answer := some (.done none), mem := t.mem } ∧ s.Lands t o l := by
  have e : s.cbWrite o l r = s.finish (u.landed o l) := by
    unfold State.cbWrite State.watching
    rw [if_pos (by simpa using hw), State.event_eq]
    dsimp only
    rw [hu]; rfl
  obtain ⟨m, hl, hout, hlo, hhi⟩ := u.landed_eq o l
  rw [hm] at hout hlo hhi
  rw [e, hl]
  have hd : drainEnded s { u with mem := m, answer := some (.done none) } = false :=
    drainEnded_of_phase (hp.trans hw.symm)
  have hc : ∀ x, ({ u with mem := m, answer := some (.done none) } : State).cbByte x = u.cbByte x := by
    intro x; apply State.cbByte_congr <;> rfl
  have hf := State.finish_withMem hd
  refine ⟨_, rfl, State.eq_withMem hf, ?_, ?_⟩
  · intro a ha
    rw [State.finish_mem, State.read_eventMem_outside]
    · unfold State.inControlBlock at ha
      exact hout a (by rw [hs]; omega) (by rw [hs]; omega)
    · unfold State.inControlBlock at ha
      show a < u.straps.cbBase ∨ u.straps.cbBase + cbEnd ≤ a
      rw [hs]; unfold cbEnd; omega
  · intro x hx
    have h1 : (s.finish { u with mem := m, answer := some (.done none) }).shown x =
        Memory.read (s.eventMem { u with mem := m, answer := some (.done none) }) (u.straps.cbBase + x) := by
      rw [hf]; exact State.shown_withMem _ _ _
    have h2 : (s.finish { u with mem := m, answer := some (.done none) }).cbByte x = u.cbByte x := by
      rw [hf, State.cbByte_withMem, hc]
    have h3 := State.read_eventMem s { u with mem := m, answer := some (.done none) } x
    rw [hc] at h3
    have h3 : Memory.read (s.eventMem { u with mem := m, answer := some (.done none) }) (u.straps.cbBase + x) =
      if s.cbChanged { u with mem := m, answer := some (.done none) } x = true
      then (u.cbByte x).getD (Memory.read m (u.straps.cbBase + x)) else Memory.read m (u.straps.cbBase + x) := h3
    have h4 : s.cbChanged (s.finish { u with mem := m, answer := some (.done none) }) x =
        s.cbChanged { u with mem := m, answer := some (.done none) } x := by rw [hf, State.cbChanged_withMem]
    rw [h1, h3]
    unfold State.refreshed
    rw [h2, h4]
    have hsh : ∀ y, s.shown y = Memory.read s.mem (u.straps.cbBase + y) := by intro y; unfold State.shown; rw [hs]
    unfold Lanes.byteAt
    by_cases hx0 : x = o
    · subst hx0
      rw [if_pos rfl, hlo]
      cases l.lo with
      | none => dsimp only; rw [hsh]
      | some b =>
        dsimp only
        split
        · cases u.cbByte x <;> rfl
        · rfl
    · by_cases hx1 : x = o + 1
      · subst hx1
        rw [if_neg hx0, if_pos rfl]
        rw [show u.straps.cbBase + (o + 1) = u.straps.cbBase + o + 1 from by omega, hhi]
        cases l.hi with
        | none => dsimp only; rw [hsh]; rfl
        | some b =>
          dsimp only
          split
          · cases u.cbByte (o + 1) <;> rfl
          · rfl
      · rw [if_neg hx0, if_neg hx1]
        dsimp only
        rw [hout _ (by omega) (by omega), hsh]

end Sys2Proof.Machine
end

