-- ==== Sys2Proof/Laws/Steady.lean ====
section
/-! SUPPORT. Steady states: which changes keep a state steady, and what the schedule does where a drive at rest is given its
first operation. -/

namespace Sys2Proof.Machine

/-- The last number of a stamp is what bumped changes. -/
@[simp] theorem State.bumped_now (s : State) : s.bumped.now = s.eventStamp := rfl

theorem Drive.currentOp_congr {v w : Drive} (h : w.queue = v.queue) : w.currentOp = v.currentOp := by
  unfold Drive.currentOp; rw [h]

theorem Drive.positionedOp_congr {v w : Drive} (h : w.queue = v.queue) : w.positionedOp = v.positionedOp := by
  unfold Drive.positionedOp; rw [Drive.currentOp_congr h]

theorem State.channelHeld_iff (s : State) :
    s.channelHeld = true ↔ ∃ (d : DriveNo) (o : Op), o ∈ s.drives[d].queue ∧ o.phase = .transferring := by
  constructor
  · intro h
    unfold State.channelHeld at h
    obtain ⟨v, hv, ho⟩ := List.any_eq_true.mp h
    obtain ⟨o, ho, hp⟩ := List.any_eq_true.mp ho
    rw [Vector.mem_toList_iff] at hv
    obtain ⟨i, hi, rfl⟩ := Vector.mem_iff_getElem.mp hv
    exact ⟨⟨i, hi⟩, o, ho, by simpa using hp⟩
  · rintro ⟨d, o, ho, hp⟩
    exact State.channelHeld_of ho hp

theorem State.channelHeld_congr {s u : State} (hq : ∀ e : DriveNo, u.drives[e].queue = s.drives[e].queue) :
    u.channelHeld = s.channelHeld := by
  rw [Bool.eq_iff_iff, State.channelHeld_iff, State.channelHeld_iff]
  simp only [hq]

/-- A state with the queues of a steady one, whose drives are steady and whose volumes do not drain, is steady. -/
theorem State.Steady.sameQueues {s u : State} (h : s.Steady) (hp : u.phase = s.phase)
    (hq : ∀ e : DriveNo, u.drives[e].queue = s.drives[e].queue) (hd : ∀ e : DriveNo, u.drives[e].Steady)
    (hv : ∀ e : DriveNo, u.NoDrain e) : u.Steady :=
  ⟨hp.trans h.1, fun e => ⟨hd e, hv e⟩, by
    rw [State.channelHeld_congr hq]
    exact h.2.2.imp id fun g e => by rw [Drive.positionedOp_congr (hq e)]; exact g e⟩

/-- A steady drive with another queue of the same kind, flag and watch. -/
theorem Drive.Steady.of {v w : Drive} (h : v.Steady) (hq : w.queue = v.queue) (hc : w.current = v.current)
    (hw : w.watch ≠ none ↔ v.watch ≠ none) (ha : w.atSpeed = v.atSpeed) : w.Steady := by
  refine ⟨?_, ?_, ?_⟩
  · rw [Drive.currentOp_congr hq, hq]; exact h.1
  · rw [Drive.currentOp_congr hq, hc]; exact h.2.1
  · rw [Drive.currentOp_congr hq, hw, ha]; exact h.2.2

theorem Drive.Steady.current_false {v : Drive} (h : v.Steady) (hq : v.currentOp = none) : v.current = false := by
  cases hc : v.current with
  | false => rfl
  | true => exact absurd hq (h.2.1.mp hc)

theorem Drive.Steady.watch_none {v : Drive} (h : v.Steady) (hq : v.currentOp = none) : v.watch = none := by
  cases hw : v.watch with
  | none => rfl
  | some x => exact absurd hq (h.2.2.mp (by rw [hw]; simp)).2

/-- A state steady but for its volumes and fields that the schedule does not read. -/
theorem State.Steady.sameDrives {s u : State} (h : s.Steady) (hp : u.phase = s.phase) (hd : u.drives = s.drives)
    (hv : ∀ e : DriveNo, u.NoDrain e) : u.Steady :=
  h.sameQueues hp (fun e => by rw [hd]) (fun e => by rw [hd]; exact (h.2.1 e).1) hv

theorem State.noDrain_congr {s u : State} (h : s.Steady) (hr : ∀ e : DriveNo, u.volume e = s.volume e) (e : DriveNo) :
    u.NoDrain e := by
  unfold State.NoDrain; rw [hr]; exact (h.2.1 e).2

/-- A state of a steady one with one drive changed, which keeps its queue. -/
theorem State.Steady.updSame {s u : State} (h : s.Steady) (hp : u.phase = s.phase) {d : DriveNo} {f : Drive → Drive}
    (hd : u.drives = upd s.drives d f) (hq : (f s.drives[d]).queue = s.drives[d].queue) (hs : (f s.drives[d]).Steady)
    (hv : ∀ e : DriveNo, u.NoDrain e) : u.Steady := by
  refine h.sameQueues hp (fun e => ?_) (fun e => ?_) hv
  · rw [hd, upd_get]; split
    · rename_i he; subst he; exact hq
    · rfl
  · rw [hd, upd_get]; split
    · exact hs
    · exact (h.2.1 e).1

theorem upd_upd {α : Type} {n : Nat} (v : Vector α n) (i : Fin n) (f g : α → α) : upd (upd v i f) i g = upd v i (fun x => g (f x)) :=
  Vector.ext_fin fun j => by
    by_cases h : i = j
    · subst h; rw [upd_get_same, upd_get_same, upd_get_same]
    · rw [upd_get_ne _ _ h, upd_get_ne _ _ h, upd_get_ne _ _ h]

theorem upd_congr {α : Type} {n : Nat} (v : Vector α n) (i : Fin n) {f g : α → α} (h : f v[i] = g v[i]) : upd v i f = upd v i g :=
  Vector.ext_fin fun j => by
    rw [upd_get, upd_get]
    split
    · rename_i e; subst e; exact h
    · rfl

theorem upd_same {α : Type} {n : Nat} (v : Vector α n) (i : Fin n) {f : α → α} (h : f v[i] = v[i]) : upd v i f = v :=
  Vector.ext_fin fun j => by
    rw [upd_get]
    split
    · rename_i e; subst e; exact h
    · rfl

theorem Drive.startedFor_queue (v : Drive) (o : Op) (t : Stamp) :
    (v.startedFor o t).queue = [{ o with enqueued := t, promoted := t, phase := .seeking }] := rfl

theorem Drive.startedFor_steady {v : Drive} (hw : v.watch = none) (o : Op) (t : Stamp) : (v.startedFor o t).Steady := by
  refine ⟨?_, ?_, ?_⟩
  · intro h; unfold Drive.startedFor Drive.currentOp at h; simp [Op.isCurrent] at h
  · unfold Drive.startedFor Drive.currentOp; simp [Op.isCurrent]
  · unfold Drive.startedFor Drive.currentOp Drive.atSpeed; simp [hw]

/-- A state in which one drive of a steady one has begun its work. -/
theorem State.Steady.started {s u : State} (h : s.Steady) (hp : u.phase = s.phase) {d : DriveNo} {o : Op} {t : Stamp}
    (hq : s.drives[d].queue = []) (hd : u.drives = upd s.drives d (fun v => v.startedFor o t))
    (hv : ∀ e : DriveNo, u.NoDrain e) : u.Steady := by
  refine ⟨hp.trans h.1, fun e => ⟨?_, hv e⟩, ?_⟩
  · rw [hd, upd_get]; split
    · exact Drive.startedFor_steady ((h.2.1 d).1.watch_none (Drive.currentOp_nil hq)) _ _
    · exact (h.2.1 e).1
  · refine h.2.2.imp (fun g => ?_) (fun g e => ?_)
    · rw [State.channelHeld_iff] at g ⊢
      obtain ⟨e, x, hx, hxp⟩ := g
      refine ⟨e, x, ?_, hxp⟩
      rw [hd, upd_get]; split
      · rename_i he; subst he; rw [hq] at hx; cases hx
      · exact hx
    · rw [hd, upd_get]; split
      · unfold Drive.startedFor Drive.positionedOp Drive.currentOp; simp [Op.isCurrent]
      · exact g e

/-- A drive's only operation is the one chosen, wherever the head stands. -/
theorem Drive.choice_single {v : Drive} {o : Op} (hq : v.queue = [o]) (ho : o.phase = .queued) :
    v.choice = some (o, v.sweepTo o.cylinder) := by
  have hc : v.candidates = [o] := by
    unfold Drive.candidates
    rw [hq]
    simp only [ho, decide_true, List.filter_cons_of_pos, List.filter_nil, List.foldl_cons, List.foldl_nil]
    have : OpClass.background.max o.cls = o.cls := by cases o.cls <;> rfl
    rw [this]; simp
  unfold Drive.choice Drive.sweepTo
  rw [hc]
  cases hh : v.head with
  | none => simp [nearest, sweepDistance]
  | some h =>
    cases hi : v.inward <;> simp only [Option.getD_some, nearest, sweepDistance, reduceCtorEq, if_false, if_true, Bool.false_eq_true]
    · by_cases hle : o.cylinder ≤ h
      · simp [hle]
      · simp [hle, show h ≤ o.cylinder by omega, show h < o.cylinder by omega]
    · by_cases hle : h ≤ o.cylinder
      · simp [hle]
      · simp [hle, show o.cylinder ≤ h by omega]

/-- The notices of a state whose drives are steady after them. -/
theorem State.schedule_of_nextStep {s t : State} (h : s.nextStep = some t) (ht : t.Steady) : s.schedule = t := by
  rw [State.schedule_step h ht.nextStep, State.notices_steady fun d => (ht.2.1 d).1]

/-- The one drive with something to be chosen is given it, where no volume drains and watching runs. -/
theorem State.nextStep_select {s t : State} {d : DriveNo} (hr : s.phase = .running) (hv : ∀ e : DriveNo, s.NoDrain e)
    (hs : s.selectStep d = some t) (ho : ∀ e : DriveNo, e ≠ d → s.selectStep e = none) : s.nextStep = some t := by
  unfold State.nextStep
  have h1 : driveNos.findSome? s.volumeStep = none := by
    rw [List.findSome?_eq_none_iff]; exact fun e _ => State.volumeStep_none (hv e)
  have h3 : driveNos.findSome? s.selectStep = some t := by
    unfold driveNos
    have key : ∀ e : DriveNo, s.selectStep e = if e = d then some t else none := by
      intro e; split
      · rename_i he; subst he; exact hs
      · rename_i he; exact ho e he
    simp only [List.findSome?_cons, List.findSome?_nil, key]
    revert d
    intro d _ _ _
    fin_cases d <;> rfl
  rw [h1, State.drainStep_none hr, h3]
  rfl

/-- The schedule of a steady state in which one drive, at rest with a stopped motor, has been
given an operation: it is chosen and the motor starts. -/
theorem State.started_schedule {s u : State} (h : s.Steady) (hp : u.phase = s.phase) {d : DriveNo} {o : Op}
    (hq : s.drives[d].queue = []) (hm : s.drives[d].media = .stopped)
    (hd : u.drives = upd s.drives d (fun v =>
      { v with queue := [{ o with enqueued := u.now, promoted := u.now, phase := .queued }] }))
    (hv : ∀ e : DriveNo, u.NoDrain e) :
    u.schedule = { u with drives := upd s.drives d (fun v => v.startedFor o u.now) } := by
  have hst : ({ u with drives := upd s.drives d (fun v => v.startedFor o u.now) } : State).Steady :=
    h.started hp hq rfl hv
  refine State.schedule_of_nextStep (State.nextStep_select (d := d) (hp.trans h.1) hv ?_ ?_) hst
  · have hg : u.drives[d] =
        { s.drives[d] with queue := [{ o with enqueued := u.now, promoted := u.now, phase := .queued }] } := by
      rw [hd, upd_get_same]
    unfold State.selectStep
    dsimp only
    rw [hg]
    rw [show Drive.currentOp { s.drives[d] with queue := [{ o with enqueued := u.now, promoted := u.now, phase := .queued }] } = none
      from by unfold Drive.currentOp; simp [Op.isCurrent]]
    rw [Drive.choice_single (v := { s.drives[d] with queue := [{ o with enqueued := u.now, promoted := u.now, phase := .queued }] })
      rfl rfl]
    dsimp only
    rw [if_neg (by rw [hm]; simp)]
    congr 1
    rw [show ({ s.drives[d] with queue := [{ o with enqueued := u.now, promoted := u.now, phase := .queued }] } : Drive).sweepTo
      o.cylinder = s.drives[d].sweepTo o.cylinder from rfl]
    unfold State.motorStage
    have hg2 : (u.choose d { o with enqueued := u.now, promoted := u.now, phase := .queued }
        (s.drives[d].sweepTo o.cylinder)).drives[d] =
        { (s.drives[d]).gain with
          inward := s.drives[d].sweepTo o.cylinder, move := .idle, moved := false,
          queue := [{ o with enqueued := u.now, promoted := u.now, phase := .seeking }] } := by
      unfold State.choose State.updDrive
      rw [upd_get_same, hg]
      simp [Drive.gain]
    dsimp only
    rw [hg2]
    simp only [Drive.gain, hm]
    unfold State.choose State.updDrive
    dsimp only
    rw [hd, upd_upd, upd_upd]
    congr 1
    apply upd_congr
    simp [Drive.startedFor, Drive.gain]
  · intro e he
    have hge : u.drives[e] = s.drives[e] := by rw [hd, upd_get_ne _ _ (Ne.symm he)]
    exact State.selectStep_steady (by rw [hge]; exact (h.2.1 e).1.1)

end Sys2Proof.Machine
end

