-- ==== Sys2Proof/Laws/Accesses.lean ====
section
/-! SUPPORT. Aperture accesses that pass the checks: what the command does, and the lookups of the state in which its event
takes place. -/

namespace Sys2Proof.Machine

/-- An event that leaves the fields of the Control Block as they are stores nothing. -/
theorem State.finish_same {s u : State} (hp : u.phase = s.phase) (hc : ∀ o, u.cbByte o = s.cbByte o)
    (hf : u.faults = s.faults) : s.finish u = u := by
  rw [State.finish_withMem (drainEnded_of_phase hp)]
  have : s.eventMem u = u.mem := by
    unfold State.eventMem State.putCbs
    have : ∀ (os : List Nat) (m : List Host.Cell),
        os.foldl (fun m o => if ¬ s.cbChanged u o = true then m else u.putCb m o) m = m := by
      intro os
      induction os with
      | nil => intro m; rfl
      | cons o os ih =>
        intro m
        rw [List.foldl_cons, if_pos (State.unchanged_of_same (fun x => (hc x).symm) hf.symm o)]
        exact ih m
    exact this _ _
  rw [this]; rfl

/-- The same, said of the fields that the block shows. -/
theorem State.finish_unseen {s u : State} (hp : u.phase = s.phase) (h0 : u.layoutVersion = s.layoutVersion)
    (h1 : u.straps = s.straps) (h2 : u.settings = s.settings) (h3 : u.classes = s.classes) (h4 : u.records = s.records)
    (h5 : u.drives = s.drives) (h6 : u.slots = s.slots) (h7 : u.faults = s.faults) : s.finish u = u :=
  State.finish_same hp (State.cbByte_congr h0 h1 h2 h3 h4 h5 h6 h7) h7

/-- An access of which every part is given. -/
theorem Access.eq_of {a : Access} {p : Place} (h : a.place = p) :
    ({ drive := a.drive, place := p, requester := a.requester, cls := a.cls, lanes := a.lanes } : Access) = a := by
  rw [← h]

/-- An admitted access as an event of its command. -/
theorem State.Admits.exec {s : State} {addr : Address} {low : Bool} {a : Access} {c : Instr} (h : s.Admits addr low a)
    (hc : a.isCommand addr low c) :
    Machine.exec c s = .next (s.event (fun t => if a.write then t.checkWrite a else t.handOff a)) := by
  obtain ⟨hp, ha, hd, hcls, hdr, hu, hm, g, hg, hv, hpl⟩ := h
  have key : ∀ l, l = a.lanes →
      s.event (fun t => t.translate (windowDrive (wordAddress addr)) (volumeOffset (cycleAddress (wordAddress addr) low))
        a.requester l) = s.event (fun t => if a.write then t.checkWrite a else t.handOff a) := by
    intro l hl
    rw [State.event_eq, State.event_eq]
    congr 1
    rw [← hd]
    unfold State.translate
    have h1 : s.bumped.classOf a.requester = some a.cls := hcls
    have h2 : s.bumped.servesVolume a.drive = true := by
      show (decide (a.drive.val < s.straps.drives) && decide (s.volume a.drive ≠ .unmounted) &&
        decide (s.volume a.drive ≠ .mounting)) = true
      simp [hdr, hu, hm]
    have h3 : s.bumped.geometry = s.geometry := rfl
    rw [h1]; dsimp only
    rw [h2, if_neg (by simp), h3, hg]; dsimp only
    rw [if_neg (Nat.not_le.mpr hv), hl, Access.eq_of hpl]
  unfold Access.isCommand at hc
  split at hc
  · rename_i hl
    obtain ⟨high, hb, rfl⟩ := hc
    rw [exec_apertureRead, State.readCycle_aperture hb ha, State.apertureCycle_running hp, key none hl.symm]
  · rename_i l hl
    obtain ⟨hb, rfl, rfl⟩ := hc
    rw [exec_apertureWrite, State.writeCycle_aperture hb ha, State.apertureCycle_running hp, key (some l) hl.symm]

theorem State.Admits.exec_read {s : State} {addr : Address} {low high : Bool} {a : Access} (h : s.Admits addr low a)
    (hl : a.lanes = none) (hb : (low || high) = true) :
    Machine.exec (.apertureRead addr low high a.requester) s = .next (s.finish (s.bumped.handOff a)) := by
  rw [h.exec (c := .apertureRead addr low high a.requester) (by unfold Access.isCommand; rw [hl]; exact ⟨high, hb, rfl⟩)]
  rw [State.event_eq]
  have : a.write = false := by unfold Access.write; rw [hl]; rfl
  rw [this, if_neg (by simp)]

theorem State.Admits.exec_write {s : State} {addr : Address} {l : Lanes} {a : Access} (h : s.Admits addr l.lo.isSome a)
    (hl : a.lanes = some l) (hb : l.enabled = true) :
    Machine.exec (.apertureWrite addr l a.requester) s = .next (s.finish (s.bumped.checkWrite a)) := by
  rw [h.exec (c := .apertureWrite addr l a.requester) (by unfold Access.isCommand; rw [hl]; exact ⟨hb, rfl, rfl⟩)]
  rw [State.event_eq]
  have : a.write = true := by unfold Access.write; rw [hl]; rfl
  rw [this, if_pos rfl]

/-- A write that passes the write permission, the guard and the write hold. -/
theorem State.checkWrite_passes {s : State} {a : Access} (h1 : s.MayWrite a.drive)
    (h2 : s.GuardPasses a.drive a.requester a.place.cylinder) (h3 : s.volume a.drive ≠ .freezing)
    (h4 : s.volume a.drive ≠ .frozen) (h5 : s.volume a.drive ≠ .releasing) : s.checkWrite a = s.handOff a := by
  unfold State.checkWrite
  dsimp only
  rw [if_neg, if_neg, if_neg]
  · show ¬ (s.volume a.drive).holdsWrites = true
    unfold VolumeState.holdsWrites
    split <;> simp_all
  · rintro ⟨g1, g2⟩
    rcases h2 with h | h
    · rw [h] at g1; cases g1
    · rw [h] at g2; cases g2
  · rintro (g | ⟨g1, g2⟩)
    · rw [h1.1] at g; cases g
    · rcases h1.2 with h | h
      · exact g1 h
      · rw [h] at g2; cases g2

/-- An access whose requester has no failed wait for it, found in a slot, is a hit there. -/
theorem State.Hits.handOff {s : State} {a : Access} {k : Nat} (h : s.Hits a k)
    (hw : (s.waiters[a.requester] : WaiterEntry).failedFor a.key a.place.sector = none) : s.handOff a = s.hit k a := by
  obtain ⟨h1, h2⟩ := h
  have hf : s.found a = some k := by
    unfold State.found
    rw [h1]; dsimp only
    rw [if_neg]
    rintro ⟨g1, g2⟩; exact g2 (h2 g1)
  unfold State.handOff
  rw [hw]; dsimp only
  unfold State.directory
  rw [hf]

theorem WaiterEntry.expiredFor_empty (key : Key) (p : Nat) : WaiterEntry.empty.expiredFor key p = none := rfl
theorem WaiterEntry.failedFor_empty (key : Key) (p : Nat) : WaiterEntry.empty.failedFor key p = none := rfl

/-- A new wait of a requester that waits for nothing. -/
theorem State.hold_new {s : State} {a : Access} {h : Hold} (hw : s.waiters[a.requester] = .empty) :
    s.hold a h = ((s.setWaiter a.requester (a.newWait h s.now)).raiseFill a.key a.cls h).answered .retry := by
  unfold State.hold
  dsimp only
  rw [hw]; rfl

end Sys2Proof.Machine
end

