-- ==== Sys2Proof/Laws/PerInstr.lean ====
section
/-! SUPPORT. A family of lemmas, one for each command: who sends a cycle has no part in whether the command is well formed. -/

namespace Sys2Proof

/-- The command as another requester sends it; the events and resets have no requester (R4). -/
def Instr.sentBy (q : Requester) : Instr → Instr
  | .noEnableCycle x0 x1 _ => .noEnableCycle x0 x1 q
  | .ordinaryCycle x0 x1 _ => .ordinaryCycle x0 x1 q
  | .unpopulatedCycle x0 x1 _ => .unpopulatedCycle x0 x1 q
  | .apertureRead x0 x1 x2 _ => .apertureRead x0 x1 x2 q
  | .apertureWrite x0 x1 _ => .apertureWrite x0 x1 q
  | .mount x0 x1 _ => .mount x0 x1 q
  | .flush x0 x1 _ => .flush x0 x1 q
  | .freeze x0 x1 _ => .freeze x0 x1 q
  | .thaw x0 x1 _ => .thaw x0 x1 q
  | .release x0 x1 _ => .release x0 x1 q
  | .reclaim x0 x1 _ => .reclaim x0 x1 q
  | .discard x0 x1 _ => .discard x0 x1 q
  | .unknownRequest x0 x1 x2 _ => .unknownRequest x0 x1 x2 q
  | .outcomeClear x0 x1 x2 _ => .outcomeClear x0 x1 x2 q
  | .faultRecordClear x0 x1 x2 _ => .faultRecordClear x0 x1 x2 q
  | .settingsWrite x0 x1 _ => .settingsWrite x0 x1 q
  | .classTableWrite x0 x1 _ => .classTableWrite x0 x1 q
  | .writeAllowWrite x0 x1 x2 _ => .writeAllowWrite x0 x1 x2 q
  | .guardFieldWrite x0 x1 x2 _ => .guardFieldWrite x0 x1 x2 q
  | .guardLockWrite x0 x1 x2 _ => .guardLockWrite x0 x1 x2 q
  | .controlBlockWrite x0 x1 _ => .controlBlockWrite x0 x1 q
  | .powerOnReset x0 x1 x2 => .powerOnReset x0 x1 x2
  | .defaultWritingEnd => .defaultWritingEnd
  | .busReset => .busReset
  | .resetFlushRewriteEnd => .resetFlushRewriteEnd
  | .doorOpen x0 x1 => .doorOpen x0 x1
  | .doorClose x0 x1 => .doorClose x0 x1
  | .indexPulse x0 x1 => .indexPulse x0 x1
  | .indexWatchExpiry x0 x1 => .indexWatchExpiry x0 x1
  | .spinUpExpiry x0 x1 => .spinUpExpiry x0 x1
  | .headUnloadExpiry x0 => .headUnloadExpiry x0
  | .motorIdleExpiry x0 => .motorIdleExpiry x0
  | .waiterExpiry x0 => .waiterExpiry x0
  | .promotion x0 x1 => .promotion x0 x1
  | .ageWriteBack x0 => .ageWriteBack x0
  | .stepComplete x0 x1 => .stepComplete x0 x1
  | .settleEnd x0 x1 => .settleEnd x0 x1
  | .idFieldRead x0 x1 => .idFieldRead x0 x1
  | .fillDataFieldRead x0 x1 => .fillDataFieldRead x0 x1
  | .writeFieldEnd x0 => .writeFieldEnd x0
  | .verifyDataFieldRead x0 x1 => .verifyDataFieldRead x0 x1
  | .labelDataFieldRead x0 x1 => .labelDataFieldRead x0 x1

namespace Laws.Sender

/-- Any requester may send a well-formed command: only what the command says makes it well formed. -/
def Statement (i : Instr) : Prop := ∀ q : Requester, (i.sentBy q).wellFormed = i.wellFormed

theorem noEnableCycle (addr : Address) (data : Option Word) (r : Requester) : Statement (.noEnableCycle addr data r) := fun _ => rfl
theorem ordinaryCycle (addr : Address) (op : BusOp) (r : Requester) : Statement (.ordinaryCycle addr op r) := fun _ => rfl
theorem unpopulatedCycle (addr : Address) (op : BusOp) (r : Requester) : Statement (.unpopulatedCycle addr op r) := fun _ => rfl
theorem apertureRead (addr : Address) (low high : Bool) (r : Requester) : Statement (.apertureRead addr low high r) := fun _ => rfl
theorem apertureWrite (addr : Address) (lanes : Lanes) (r : Requester) : Statement (.apertureWrite addr lanes r) := fun _ => rfl
theorem mount (d : DriveNo) (cls : Option Byte) (r : Requester) : Statement (.mount d cls r) := fun _ => rfl
theorem flush (d : DriveNo) (cls : Option Byte) (r : Requester) : Statement (.flush d cls r) := fun _ => rfl
theorem freeze (d : DriveNo) (cls : Option Byte) (r : Requester) : Statement (.freeze d cls r) := fun _ => rfl
theorem thaw (d : DriveNo) (cls : Option Byte) (r : Requester) : Statement (.thaw d cls r) := fun _ => rfl
theorem release (d : DriveNo) (cls : Option Byte) (r : Requester) : Statement (.release d cls r) := fun _ => rfl
theorem reclaim (d : DriveNo) (cls : Option Byte) (r : Requester) : Statement (.reclaim d cls r) := fun _ => rfl
theorem discard (d : DriveNo) (cls : Option Byte) (r : Requester) : Statement (.discard d cls r) := fun _ => rfl
theorem unknownRequest (d : DriveNo) (value : Byte) (cls : Option Byte) (r : Requester) : Statement (.unknownRequest d value cls r) := fun _ => rfl
theorem outcomeClear (d : DriveNo) (low high : Bool) (r : Requester) : Statement (.outcomeClear d low high r) := fun _ => rfl
theorem faultRecordClear (f : Fin 5) (low high : Bool) (r : Requester) : Statement (.faultRecordClear f low high r) := fun _ => rfl
theorem settingsWrite (pair : Fin 4) (lanes : Lanes) (r : Requester) : Statement (.settingsWrite pair lanes r) := fun _ => rfl
theorem classTableWrite (pair : Fin 4) (lanes : Lanes) (r : Requester) : Statement (.classTableWrite pair lanes r) := fun _ => rfl
theorem writeAllowWrite (d : DriveNo) (value : Byte) (retry : Option Byte) (r : Requester) : Statement (.writeAllowWrite d value retry r) := fun _ => rfl
theorem guardFieldWrite (d : DriveNo) (field : GuardWord) (lanes : Lanes) (r : Requester) : Statement (.guardFieldWrite d field lanes r) := fun _ => rfl
theorem guardLockWrite (d : DriveNo) (value : Byte) (complement : Option Byte) (r : Requester) : Statement (.guardLockWrite d value complement r) := fun _ => rfl
theorem controlBlockWrite (wordIndex : Fin 256) (lanes : Lanes) (r : Requester) : Statement (.controlBlockWrite wordIndex lanes r) := fun _ => rfl
theorem powerOnReset (straps : BitVec 9) (doors : BitVec 4) (pins : Pins) : Statement (.powerOnReset straps doors pins) := fun _ => rfl
theorem defaultWritingEnd : Statement .defaultWritingEnd := fun _ => rfl
theorem busReset : Statement .busReset := fun _ => rfl
theorem resetFlushRewriteEnd : Statement .resetFlushRewriteEnd := fun _ => rfl
theorem doorOpen (d : DriveNo) (pins : Pins) : Statement (.doorOpen d pins) := fun _ => rfl
theorem doorClose (d : DriveNo) (pins : Pins) : Statement (.doorClose d pins) := fun _ => rfl
theorem indexPulse (d : DriveNo) (pins : Pins) : Statement (.indexPulse d pins) := fun _ => rfl
theorem indexWatchExpiry (d : DriveNo) (pins : Pins) : Statement (.indexWatchExpiry d pins) := fun _ => rfl
theorem spinUpExpiry (d : DriveNo) (pins : Pins) : Statement (.spinUpExpiry d pins) := fun _ => rfl
theorem headUnloadExpiry (d : DriveNo) : Statement (.headUnloadExpiry d) := fun _ => rfl
theorem motorIdleExpiry (d : DriveNo) : Statement (.motorIdleExpiry d) := fun _ => rfl
theorem waiterExpiry (r : Requester) : Statement (.waiterExpiry r) := fun _ => rfl
theorem promotion (d : DriveNo) (slot : Option Nat) : Statement (.promotion d slot) := fun _ => rfl
theorem ageWriteBack (slot : Nat) : Statement (.ageWriteBack slot) := fun _ => rfl
theorem stepComplete (d : DriveNo) (pins : Pins) : Statement (.stepComplete d pins) := fun _ => rfl
theorem settleEnd (d : DriveNo) (pins : Pins) : Statement (.settleEnd d pins) := fun _ => rfl
theorem idFieldRead (field : IdField) (pins : Pins) : Statement (.idFieldRead field pins) := fun _ => rfl
theorem fillDataFieldRead (field : DataField) (pins : Pins) : Statement (.fillDataFieldRead field pins) := fun _ => rfl
theorem writeFieldEnd (pins : Pins) : Statement (.writeFieldEnd pins) := fun _ => rfl
theorem verifyDataFieldRead (field : DataField) (pins : Pins) : Statement (.verifyDataFieldRead field pins) := fun _ => rfl
theorem labelDataFieldRead (field : DataField) (pins : Pins) : Statement (.labelDataFieldRead field pins) := fun _ => rfl

end Laws.Sender

end Sys2Proof
end

