-- ==== Sys2Proof/Tests/Slice0.lean ====
section
/-! SUPPORT. Tests: ill-formed commands refused, the manual's worked cases, and, for each statement with hypotheses, a state
and operands that meet all of them. -/

open Sys2Proof Sys2Proof.Machine

namespace Sys2Proof.Tests

set_option Elab.async false

/-! ### Ill-formed commands -/

def noLanes : Lanes := { lo := none, hi := none }
def bothLanes : Lanes := { lo := some 0x12, hi := some 0x34 }
def pinsUp : Pins := { ready := 0xF, track0 := 0, wprot := 0 }
/-- A data field with one byte, which is no whole sector. -/
def shortField : DataField := { mfm := true, mark := .data, bytes := [0], crc := 0 }

theorem test_refused_ordinary_without_enable : (Instr.ordinaryCycle 0 (.read false false) 0).wellFormed = false := by decide
theorem test_refused_ordinary_in_aperture : (Instr.ordinaryCycle 0x800000 (.read true true) 0).wellFormed = false := by
  decide
theorem test_refused_unpopulated_without_enable : (Instr.unpopulatedCycle 0x80000 (.write noLanes) 0).wellFormed = false := by
  decide
theorem test_refused_unpopulated_in_aperture : (Instr.unpopulatedCycle 0x800000 (.read true true) 0).wellFormed = false := by
  decide
theorem test_refused_aperture_read_without_enable : (Instr.apertureRead 0x800000 false false 0).wellFormed = false := by decide
theorem test_refused_aperture_read_below : (Instr.apertureRead 0x7FFFFE true true 0).wellFormed = false := by decide
theorem test_refused_aperture_write_without_enable : (Instr.apertureWrite 0x800000 noLanes 0).wellFormed = false := by decide
theorem test_refused_aperture_write_below : (Instr.apertureWrite 0x7FFFFE bothLanes 0).wellFormed = false := by decide
theorem test_refused_known_request : (Instr.unknownRequest 0 7 none 0).wellFormed = false := by decide
theorem test_refused_outcome_clear : (Instr.outcomeClear 0 false false 0).wellFormed = false := by decide
theorem test_refused_fault_clear : (Instr.faultRecordClear 0 false false 0).wellFormed = false := by decide
theorem test_refused_settings : (Instr.settingsWrite 0 noLanes 0).wellFormed = false := by decide
theorem test_refused_class_table : (Instr.classTableWrite 0 noLanes 0).wellFormed = false := by decide
theorem test_refused_guard_field : (Instr.guardFieldWrite 0 .complement bothLanes 0).wellFormed = false := by decide
theorem test_refused_guard_extent : (Instr.guardFieldWrite 0 .extentEnd noLanes 0).wellFormed = false := by decide
theorem test_refused_guard_exempt : (Instr.guardFieldWrite 0 .exempt noLanes 0).wellFormed = false := by decide
theorem test_refused_control_block : (Instr.controlBlockWrite 0 noLanes 0).wellFormed = false := by decide
theorem test_refused_promotion_slot : (Instr.promotion 0 (some 64)).wellFormed = false := by decide
theorem test_refused_age_slot : (Instr.ageWriteBack 64).wellFormed = false := by decide
theorem test_refused_fill_field : (Instr.fillDataFieldRead shortField pinsUp).wellFormed = false := by decide
theorem test_refused_verify_field : (Instr.verifyDataFieldRead shortField pinsUp).wellFormed = false := by decide
theorem test_refused_label_field : (Instr.labelDataFieldRead shortField pinsUp).wellFormed = false := by decide

/-- The table gives no bits, so no word spells a command (98_reader.md). -/
theorem test_no_word_is_a_command : decodeTableWord 16 0x1234 = none := rfl

/-! ### The manual's worked cases -/

/-- 06, Worked case: stamps, first label. -/
theorem test_stamp_of_spaces : stampOf (List.replicate 128 0x20) = 0x0C10#16 := by decide +kernel
/-- 06, Worked case: stamps, second label. -/
theorem test_stamp_of_title : stampOf ([1, 2, 3] ++ List.replicate 125 0) = 0xFA06#16 := by decide +kernel

/-- 02, Worked case: the interleave clamp: the eight lines of its table. -/
theorem test_interleave_table :
    [(2, 10, 20), (0, 27, 3), (0, 13, 26), (1, 0, 31), (2, 4, 2), (3, 3, 31), (3, 6, 8), (3, 8, 0)].map
      (fun (x : Fin 4 × Nat × Nat) => (effectiveInterleave x.1 x.2.1, effectiveSkew x.1 x.2.2)) =
    [(1, 5), (1, 3), (1, 0), (1, 5), (4, 2), (3, 7), (1, 0), (1, 0)] := by decide +kernel

/-- 02, Worked case: the ID list of one track. -/
theorem test_id_list :
    ({ size := 2, heads := 2, interleave := 4, skew := 2 } : Geometry).idList 3 =
      [7, 11, 15, 4, 8, 12, 1, 5, 9, 13, 2, 6, 10, 14, 3] := by decide +kernel

/-- 02, Worked case: a byte in drive 1's window. -/
theorem test_decomposition :
    windowDrive 0xA4C1F2 = 1 ∧ volumeOffset (cycleAddress 0xA4C1F2 false) = 311795 ∧
      ({ size := 1, heads := 2, interleave := 7, skew := 3 } : Geometry).place 311795 =
        { cylinder := 23, head := 0, offset := 5619, sector := 21, sectorId := 9 } := by decide +kernel

/-- 02, Worked case: the edges of a single-sided window. -/
theorem test_window_edge :
    ({ size := 1, heads := 1, interleave := 1, skew := 0 } : Geometry).volumeSize = 512512 ∧
      (({ size := 1, heads := 1, interleave := 1, skew := 0 } : Geometry).place 512511).cylinder = 76 := by decide +kernel

/-- 01, Classification of sample addresses. -/
theorem test_classification :
    [0x000300, 0x000412, 0x0005FE, 0x000600, 0x07FFFE, 0x080000, 0x0FFFFE, 0x7FFFFE, 0x800000, 0xFFFFFE].map
      State.reset.straps.classify =
    [.ordinary, .controlBlock, .controlBlock, .ordinary, .ordinary, .unpopulated, .unpopulated, .unpopulated, .aperture,
      .aperture] := by decide +kernel

/-! ### States of the witnesses -/

/-- Watching runs, every drive empty. -/
def running : State := { State.reset with phase := .running, layoutVersion := 1 }

/-- Reset-flush drains. -/
def draining : State := { State.reset with phase := .draining }

/-- The rewrite is to store its last word. -/
def rewriting : State := { State.reset with phase := .rewriting 0x18E }

/-- A double-sided volume with size code 2, interleave 4, skew 2. -/
def geo : Geometry := { size := 2, heads := 2, interleave := 4, skew := 2 }

/-- Drive 0 in a volume state, holding a diskette, its motor stopped, its head on cylinder 10, write allow on. -/
def volumeIn (v : VolumeState) : State :=
  { running with
    geometry := upd running.geometry 0 (fun _ => if v = .unmounted ∨ v = .mounting then none else some geo)
    records := upd running.records 0 (fun m =>
      { m with state := v, stamp := some 0x1234, host := { m.host with writeAllow := true } })
    drives := upd running.drives 0 (fun w => { w with media := .stopped, head := some 10 }) }

/-- The track of cylinder 3, head 1 of drive 0. -/
def key0 : Key := { drive := 0, cylinder := 3, head := 1 }

/-- A slot of that track whose first sector is in the state given, the others VALID. -/
def slotWith (st : SlotState) (e : Sector) : Slot :=
  { Slot.blank with state := st, key := some key0, sectors := e :: List.replicate 14 { state := .valid, report := false } }

/-- Slot 0 taken by a track, in a volume state. -/
def holdingIn (v : VolumeState) (t : Slot) : State :=
  { volumeIn v with slots := t :: List.replicate 63 Slot.blank, freeList := (List.range 64).tail, recency := [0] }

/-- The same in a MOUNTED volume. -/
def holding (t : Slot) : State := holdingIn .mounted t

/-- Slot 0 RESIDENT with its first sector DIRTY. -/
def dirtied (v : VolumeState) : State := holdingIn v (slotWith .resident { state := .dirty, report := false })

/-- Every slot of that part but the first is FREE. -/
theorem slot_other (v : VolumeState) (t : Slot) {j : Nat} (h : j ≠ 0) : (holdingIn v t).slot j = Slot.blank := by
  cases j with
  | zero => exact absurd rfl h
  | succ j =>
    show (List.replicate 63 Slot.blank).getD j Slot.blank = Slot.blank
    rw [List.getD_eq_getElem?_getD, List.getElem?_replicate]
    split <;> rfl

/-- Every sector of that track but the first is VALID. -/
theorem sector_other (st : SlotState) (e : Sector) {j : Nat} (h : j ≠ 0) : ((slotWith st e).sector j).state = .valid := by
  cases j with
  | zero => exact absurd rfl h
  | succ j =>
    show ((List.replicate 14 ({ state := .valid, report := false } : Sector)).getD j { state := .valid, report := false }).state = .valid
    rw [List.getD_eq_getElem?_getD, List.getElem?_replicate]
    split <;> rfl

/-- Drive 0 MOUNTED with slot 0 clean, drive 1 LOST with slot 1 STRANDED. -/
def lostBeside : State :=
  let s := volumeIn .mounted
  { s with
    geometry := upd s.geometry 1 (fun _ => some geo)
    records := upd s.records 1 (fun m => { m with state := .lost })
    slots := slotWith .resident { state := .valid, report := false } ::
      { slotWith .stranded { state := .dirty, report := false } with key := some { key0 with drive := 1 } } ::
      List.replicate 62 Slot.blank
    freeList := (List.range 64).drop 2
    recency := [1, 0] }

/-- The address of the first word of that track. -/
def addr0 : Address := 0x80D200

/-- Requester 1's access to that word. -/
def access (l : Option Lanes) : Access :=
  { drive := 0, place := geo.place 53760, requester := 1, cls := .normal, lanes := l }

/-- What makes an access of requester 1 to that word pass the first three checks. -/
theorem admitted {s : State} (l : Option Lanes)
    (h : s.phase = .running ∧ s.classOf 1 = some .normal ∧ (0 : DriveNo).val < s.straps.drives ∧ s.volume 0 ≠ .unmounted ∧
      s.volume 0 ≠ .mounting ∧ s.geometry[(0 : DriveNo)] = some geo) : s.Admits addr0 true (access l) := by
  obtain ⟨h1, h2, h3, h4, h5, h6⟩ := h
  have hd : (0 : DriveNo) = windowDrive (wordAddress addr0) := by decide +kernel
  have hp : geo.place 53760 = geo.place (volumeOffset (cycleAddress (wordAddress addr0) true)) := by decide +kernel
  exact ⟨h1, by decide, hd, h2, h3, h4, h5, geo, h6, by decide +kernel, hp⟩

/-- Requester 1 waits for that word. -/
def waiting (st : WaitStatus) : Waiter :=
  { key := key0, sector := 0, write := false, cls := .normal, start := { ms := 0, seq := 0 }, status := st, exceeded := false }

/-- A state in which requester 1 has an entry. -/
def withWait (s : State) (w : Waiter) : State := { s with waiters := upd s.waiters 1 (fun _ => .wait w) }

/-- An operation on the track of key0. -/
def opOn (w : Work) (c : OpClass) (ph : OpPhase) : Op :=
  { work := w, reason := if w.isWrite = true then some .flush else none, cylinder := 3, head := 1, cls := c,
    enqueued := { ms := 0, seq := 0 }, promoted := { ms := 0, seq := 0 }, phase := ph }

/-- A pass on drive 0, on what its round works on. -/
def passOn (t : Target) (r : Round) (awaited : Option Nat) : Pass :=
  { drive := 0, cylinder := 3, head := 1, target := t, retry := 3, round := r, pulses := 0, recals := 0, rewrites := 0,
    recovering := false, awaited := awaited }

/-- The track of key0 as a target. -/
def trackOf : Target := .track 0 key0 0 (geo.idList 3) 2 true

/-- Drive 0 transfers an operation in a pass: LOADED, its index watch running. -/
def passing (s : State) (w : Work) (p : Pass) : State :=
  { s with
    drives := upd s.drives 0 (fun v =>
      { v with queue := [opOn w .normal .transferring], current := true, media := .loaded, head := some 3, watch := some 0 })
    pass := some p }

/-- The first sector of slot 0 OUTBOUND and active in a write pass. -/
def writingState : State :=
  passing (holding { slotWith .writing { state := .outbound, report := false } with active := some 0 }) (.write 0 0 false)
    (passOn trackOf (.writing [0] []) none)

/-- A WRITE pass with no active sector. -/
def writePass : State :=
  passing (holding (slotWith .writing { state := .outbound, report := false })) (.write 0 0 false)
    (passOn trackOf (.writing [0] []) none)

/-! ### Witnesses: time and resets -/

theorem witness_EmptyQueuePassesTime_running : running.pending = [] ∧ running.phase = .running := by decide +kernel
theorem witness_EmptyQueuePassesTime_draining : draining.pending = [] ∧ draining.phase = .draining := by decide +kernel
theorem witness_EmptyQueuePassesTime_defaultWriting :
    State.reset.pending = [] ∧ 2 < 0x190 ∧ State.reset.phase = .defaultWriting 2 := by decide +kernel
theorem witness_EmptyQueuePassesTime_rewriting :
    rewriting.pending = [] ∧ 0x18E < 0x190 ∧ rewriting.phase = .rewriting 0x18E := by decide +kernel
theorem witness_WritingEndResumesWatching_default : State.reset.phase = .defaultWriting 2 := by decide +kernel
theorem witness_WritingEndResumesWatching_rewrite : rewriting.phase = .rewriting 0x18E := by decide +kernel
theorem witness_BusResetStopsWatching : running.phase = .running ∧ running.layoutVersion = 1 := by decide +kernel
theorem witness_BusResetStopsWatching_write :
    ((dirtied .frozen).Idle ∧ 0 < (dirtied .frozen).slots.length ∧ ((dirtied .frozen).slot 0).key = some key0 ∧
      ((dirtied .frozen).slot 0).state = .resident ∧ ((dirtied .frozen).slot 0).dirty = true) ∧
      (∀ j, j ≠ 0 → ((dirtied .frozen).slot j).dirty = false) ∧ (∀ j, ((dirtied .frozen).slot j).pendingWrite = none) ∧
      (∀ d : DriveNo, (dirtied .frozen).records[d].pendingDiscard = false ∧
        ((dirtied .frozen).volume d = .unmounted ∨ (dirtied .frozen).volume d = .mounted ∨
          (dirtied .frozen).volume d = .frozen ∨ (dirtied .frozen).volume d = .lost)) ∧
      (dirtied .frozen).volume key0.drive ≠ .lost ∧ (dirtied .frozen).drives[key0.drive].media = .stopped := by
  refine ⟨by decide +kernel, fun j hj => ?_, fun j => ?_, by decide +kernel⟩
  · unfold dirtied; rw [slot_other _ _ hj]; rfl
  · by_cases hj : j = 0
    · subst hj; rfl
    · unfold dirtied; rw [slot_other _ _ hj]; rfl
/-- One slot RESIDENT and clean, one STRANDED on a LOST volume, the others FREE. -/
theorem witness_BusResetOfCleanPart :
    lostBeside.Idle ∧
      (∀ k, k < lostBeside.slots.length →
        ((lostBeside.slot k).state = .free ∧ (lostBeside.slot k).key = none ∧ (lostBeside.slot k).pendingWrite = none) ∨
        ((lostBeside.slot k).state = .resident ∧ (lostBeside.slot k).dirty = false ∧ (lostBeside.slot k).key ≠ none) ∨
        ((lostBeside.slot k).state = .stranded ∧ (lostBeside.slot k).pendingWrite = none ∧
          ∃ key, (lostBeside.slot k).key = some key ∧ lostBeside.volume key.drive = .lost)) ∧
      ∀ d : DriveNo, lostBeside.volume d = .unmounted ∨ lostBeside.volume d = .mounted ∨ lostBeside.volume d = .frozen ∨
        lostBeside.volume d = .lost := by
  refine ⟨by decide +kernel, fun k hk => ?_, by decide +kernel⟩
  match k with
  | 0 => exact .inr (.inl (by decide +kernel))
  | 1 => exact .inr (.inr ⟨rfl, rfl, _, rfl, rfl⟩)
  | k + 2 =>
    have : lostBeside.slot (k + 2) = Slot.blank := by
      show (List.replicate 62 Slot.blank).getD k Slot.blank = Slot.blank
      rw [List.getD_eq_getElem?_getD, List.getElem?_replicate]
      split <;> rfl
    rw [this]; exact .inl ⟨rfl, rfl, rfl⟩

/-- The drain's one WRITE waits for its drive to come ready. -/
def drainWrite : State :=
  let s := dirtied .mounted
  { s with
    phase := .draining
    drives := upd s.drives 0 (fun v =>
      { v with queue := [opOn (.write 0 0 false) .urgent .seeking], current := true, media := .starting, spinUp := some 7,
               move := .spinUp }) }

theorem witness_BusResetOfCleanPart_failure :
    drainWrite.phase = .draining ∧ 0 < drainWrite.slots.length ∧ (drainWrite.slot 0).key = some key0 ∧
      (drainWrite.slot 0).state = .resident ∧ (drainWrite.slot 0).dirty = true ∧
      (∀ e ∈ (drainWrite.slot 0).sectors, e.state = .valid ∨ e.state = .dirty ∨ e.state = .damaged) ∧
      (∀ j, j < drainWrite.slots.length → j ≠ 0 → (drainWrite.slot j).state = .free ∧ (drainWrite.slot j).key = none) ∧
      drainWrite.NoSlotWaits ∧ (∀ e : DriveNo, e ≠ 0 → drainWrite.drives[e].Resting) ∧
      (∀ e : DriveNo, drainWrite.volume e = .unmounted ∨ drainWrite.volume e = .mounted ∨ drainWrite.volume e = .frozen ∨
        drainWrite.volume e = .lost) ∧
      drainWrite.volume 0 = .mounted ∧ drainWrite.records[(0 : DriveNo)].flushSet = [] ∧
      drainWrite.records[(0 : DriveNo)].pendingDiscard = false ∧
      drainWrite.drives[(0 : DriveNo)].queue = [opOn (.write 0 0 false) .urgent .seeking] ∧
      drainWrite.drives[(0 : DriveNo)].current = true ∧ drainWrite.drives[(0 : DriveNo)].media = .starting ∧
      drainWrite.drives[(0 : DriveNo)].spinUp = some 7 ∧ drainWrite.drives[(0 : DriveNo)].watch = none ∧
      ({ pinsUp with ready := 0 } : Pins).ready.getLsbD 0 = false := by decide +kernel
theorem witness_BusResetDuringReset_draining : draining.phase = .draining := by decide +kernel
theorem witness_BusResetDuringReset_rewriting : rewriting.phase = .rewriting 0x18E := by decide +kernel
theorem witness_BusResetDuringReset_defaultWriting : State.reset.phase = .defaultWriting 2 := by decide +kernel

/-! ### Witnesses: bus cycles -/

/-- The four classes, each at the first address of its range, with the ordinary one below and above the block. -/
theorem witness_CyclesClassifiedByAddress :
    0x800000 ≤ 0x800000 ∧ (0x80000 < 0x800000 ∧ State.reset.straps.poolBase ≤ 0x80000) ∧
      (0x400 < State.reset.straps.poolBase ∧ State.reset.straps.cbBase ≤ 0x400 ∧ 0x5FF ≤ State.reset.straps.cbBase + 511) ∧
      (0x600 < State.reset.straps.poolBase ∧
        ¬ (State.reset.straps.cbBase ≤ 0x600 ∧ 0x600 ≤ State.reset.straps.cbBase + 511)) := by decide +kernel
theorem witness_CyclesClassifiedByAddress_map :
    ∃ t, exec .busReset running = .next t ∧ ∀ lines doors pins, Instr.busReset ≠ .powerOnReset lines doors pins :=
  ⟨_, rfl, fun _ _ _ => by simp⟩
theorem witness_OrdinaryCycleReachesDram :
    running.straps.classify (wordAddress 0x7FFFE) = .ordinary ∧ (false || true) = true ∧ bothLanes.enabled = true := by
  decide +kernel
theorem witness_OrdinaryCycleReachesDram_controlBlock :
    running.straps.classify (wordAddress 0x401) = .controlBlock ∧ (false || true) = true := by decide +kernel
theorem witness_UnpopulatedCycleReported :
    (BusOp.read true true).enabled = true ∧ State.reset.straps.classify (wordAddress 0x80000) = .unpopulated := by
  decide +kernel
theorem witness_ApertureHeldOffDuringReset :
    0x800000 ≤ wordAddress 0x800001 ∧ (false || true) = true ∧ bothLanes.enabled = true ∧
      State.reset.phase = .defaultWriting 2 ∧ draining.phase = .draining ∧ rewriting.phase = .rewriting 0x18E := by
  decide +kernel

/-! ### Witnesses: the checks on an aperture access -/

/-- Requester 1 BARRED. -/
def barredOne : State := { running with classes := upd running.classes 1 (fun _ => 0xFC) }

theorem witness_ApertureRefusals_barred :
    barredOne.phase = .running ∧ 0x800000 ≤ wordAddress 0x800000 ∧ (true || true) = true ∧ barredOne.classOf 1 = none := by
  decide +kernel
theorem witness_ApertureRefusals_noVolume :
    running.phase = .running ∧ 0x800000 ≤ wordAddress 0xFFFFFF ∧ bothLanes.enabled = true ∧ running.classOf 1 ≠ none ∧
      running.volume (windowDrive (wordAddress 0xFFFFFF)) = .unmounted := by decide +kernel
/-- The first address beyond a volume of 1,182,720 bytes, in drive 0's window. -/
theorem witness_ApertureRefusals_beyondVolume :
    (volumeIn .mounted).phase = .running ∧ 0x800000 ≤ wordAddress 0x920C00 ∧ (true || true) = true ∧
      (volumeIn .mounted).classOf 1 ≠ none ∧
      (windowDrive (wordAddress 0x920C00)).val < (volumeIn .mounted).straps.drives ∧
      (volumeIn .mounted).volume (windowDrive (wordAddress 0x920C00)) ≠ .unmounted ∧
      (volumeIn .mounted).volume (windowDrive (wordAddress 0x920C00)) ≠ .mounting ∧
      (volumeIn .mounted).geometry[windowDrive (wordAddress 0x920C00)] = some geo ∧
      geo.volumeSize ≤ volumeOffset (cycleAddress (wordAddress 0x920C00) true) := by decide +kernel

/-- Write allow off. -/
def readOnly : State := { holding (slotWith .resident { state := .valid, report := false }) with records := upd (volumeIn .mounted).records 0 (fun m => { m with host := { m.host with writeAllow := false } }) }

/-- Cylinder 3 lies in a guard of 4 cylinders. -/
def guarded : State := { holding (slotWith .resident { state := .valid, report := false }) with records := upd (volumeIn .mounted).records 0 (fun m => { m with host := { m.host with guardExtent := 3 } }) }

theorem witness_ProtectedWriteDropped :
    readOnly.Admits addr0 bothLanes.lo.isSome (access (some bothLanes)) ∧ (access (some bothLanes)).lanes = some bothLanes ∧
      bothLanes.enabled = true ∧ ¬ readOnly.MayWrite 0 := ⟨admitted _ (by decide +kernel), rfl, rfl, by decide +kernel⟩
theorem witness_ProtectedWriteDropped_guard :
    guarded.Admits addr0 bothLanes.lo.isSome (access (some bothLanes)) ∧ guarded.MayWrite 0 ∧
      ¬ guarded.GuardPasses 0 1 (access (some bothLanes)).place.cylinder :=
  ⟨admitted _ (by decide +kernel), by decide +kernel, by decide +kernel⟩
theorem witness_WriteHeldWhileFrozen :
    (volumeIn .frozen).Admits addr0 bothLanes.lo.isSome (access (some bothLanes)) ∧ bothLanes.enabled = true ∧
      (volumeIn .frozen).MayWrite 0 ∧ (volumeIn .frozen).GuardPasses 0 1 (access (some bothLanes)).place.cylinder ∧
      (volumeIn .frozen).volume 0 = .frozen ∧ (volumeIn .frozen).waiters[(1 : Requester)] = .empty :=
  ⟨admitted _ (by decide +kernel), rfl, by decide +kernel, by decide +kernel, by decide +kernel, by decide +kernel⟩
theorem witness_WriteHeldWhileFrozen_reissue :
    (withWait (volumeIn .frozen) (waiting (.hold .writeHold))).Admits addr0 bothLanes.lo.isSome (access (some bothLanes)) ∧
      (withWait (volumeIn .frozen) (waiting (.hold .writeHold))).MayWrite 0 ∧
      (withWait (volumeIn .frozen) (waiting (.hold .writeHold))).GuardPasses 0 1 3 ∧
      (withWait (volumeIn .frozen) (waiting (.hold .writeHold))).volume 0 = .frozen ∧
      (withWait (volumeIn .frozen) (waiting (.hold .writeHold))).waiters[(1 : Requester)] = .wait (waiting (.hold .writeHold)) ∧
      (waiting (.hold .writeHold)).key = (access (some bothLanes)).key ∧
      (waiting (.hold .writeHold)).sector = (access (some bothLanes)).place.sector :=
  ⟨admitted _ (by decide +kernel), by decide +kernel, by decide +kernel, by decide +kernel, by decide +kernel,
    by decide +kernel, by decide +kernel⟩

/-! ### Witnesses: served accesses, misses and waits -/

theorem witness_ApertureReadServed :
    (holding (slotWith .resident { state := .valid, report := false })).Admits addr0 true (access none) ∧
      ((holding (slotWith .resident { state := .valid, report := false })).waiters[(1 : Requester)] : WaiterEntry).failedFor
        (access none).key (access none).place.sector = none ∧
      (holding (slotWith .resident { state := .valid, report := false })).Hits (access none) 0 :=
  ⟨admitted _ (by decide +kernel), by decide +kernel, by unfold State.Hits; decide +kernel⟩
/-- A DAMAGED sector with its read-report marker set, in a LOST volume's STRANDED slot. -/
theorem witness_ApertureReadServed_damaged :
    (holdingIn .lost (slotWith .stranded { state := .damaged, report := true })).Admits addr0 true (access none) ∧
      (holdingIn .lost (slotWith .stranded { state := .damaged, report := true })).Hits (access none) 0 ∧
      (((holdingIn .lost (slotWith .stranded { state := .damaged, report := true })).slot 0).sector 0).report = true :=
  ⟨admitted _ (by decide +kernel), by unfold State.Hits; decide +kernel, by decide +kernel⟩
theorem witness_ApertureWriteAccepted :
    (holding (slotWith .resident { state := .valid, report := false })).Admits addr0 bothLanes.lo.isSome
        (access (some bothLanes)) ∧
      (holding (slotWith .resident { state := .valid, report := false })).MayWrite 0 ∧
      (holding (slotWith .resident { state := .valid, report := false })).GuardPasses 0 1 3 ∧
      (holding (slotWith .resident { state := .valid, report := false })).volume 0 = .mounted ∧
      (holding (slotWith .resident { state := .valid, report := false })).Hits (access (some bothLanes)) 0 ∧
      ((holding (slotWith .resident { state := .valid, report := false })).slot 0).sectors.length = 15 ∧
      ((holding (slotWith .resident { state := .valid, report := false })).slot 0).active = none ∧
      ((holding (slotWith .resident { state := .valid, report := false })).slot 0).dirty = false ∧
      (holding (slotWith .resident { state := .valid, report := false })).settings.writeBackDelay = 5 :=
  ⟨admitted _ (by decide +kernel), by decide +kernel, by decide +kernel, by decide +kernel,
    by unfold State.Hits; decide +kernel, by decide +kernel, by decide +kernel, by decide +kernel, by decide +kernel⟩

/-- A write to a RESIDENT slot that is DIRTY already, its age below the write-back delay. -/
theorem witness_ApertureWriteAccepted_dirty :
    (dirtied .mounted).Admits addr0 bothLanes.lo.isSome (access (some bothLanes)) ∧ (dirtied .mounted).MayWrite 0 ∧
      (dirtied .mounted).GuardPasses 0 1 3 ∧ (dirtied .mounted).Hits (access (some bothLanes)) 0 ∧
      ((dirtied .mounted).slot 0).dirty = true ∧ ((dirtied .mounted).slot 0).active ≠ some 0 ∧
      (((dirtied .mounted).slot 0).sector 0).state = .dirty ∧ ((dirtied .mounted).slot 0).dirtySince = none :=
  ⟨admitted _ (by decide +kernel), by decide +kernel, by decide +kernel, by unfold State.Hits; decide +kernel,
    by decide +kernel, by decide +kernel, by decide +kernel, by decide +kernel⟩
/-- A write to an OUTBOUND sector that is not active. -/
theorem witness_ApertureWriteAccepted_outbound :
    writePass.Admits addr0 bothLanes.lo.isSome (access (some bothLanes)) ∧ writePass.MayWrite 0 ∧
      writePass.GuardPasses 0 1 3 ∧ writePass.Hits (access (some bothLanes)) 0 ∧
      ((writePass.slot 0).sector 0).state = .outbound ∧ (writePass.slot 0).active ≠ some 0 ∧
      (writePass.slot 0).state ≠ .resident ∧ writePass.waiters[(1 : Requester)] = .empty :=
  ⟨admitted _ (by decide +kernel), by decide +kernel, by decide +kernel, by unfold State.Hits; decide +kernel,
    by decide +kernel, by decide +kernel, by decide +kernel, by decide +kernel⟩
theorem witness_ApertureWriteAccepted_active :
    writingState.Admits addr0 bothLanes.lo.isSome (access (some bothLanes)) ∧ writingState.MayWrite 0 ∧
      writingState.GuardPasses 0 1 3 ∧ writingState.Hits (access (some bothLanes)) 0 ∧
      writingState.waiters[(1 : Requester)] = .empty ∧ ((writingState.slot 0).sector 0).state ≠ .absent ∧
      (writingState.slot 0).active = some 0 :=
  ⟨admitted _ (by decide +kernel), by decide +kernel, by decide +kernel, by unfold State.Hits; decide +kernel,
    by decide +kernel, by decide +kernel, by decide +kernel⟩

/-- Slot 0 FILLING, its first sector ABSENT. -/
def filling : State := holding (slotWith .filling { state := .absent, report := false })

theorem witness_AbsentSectorHeld :
    filling.Admits addr0 true (access none) ∧
      (access none).isCommand addr0 true (.apertureRead addr0 true true 1) ∧ (access none).write = false ∧
      filling.waiters[(1 : Requester)] = .empty ∧ filling.Hits (access none) 0 ∧
      ((filling.slot 0).sector (access none).place.sector).state = .absent :=
  ⟨admitted _ (by decide +kernel), ⟨true, rfl, rfl⟩, rfl, by decide +kernel, by unfold State.Hits; decide +kernel,
    by decide +kernel⟩
theorem witness_AbsentSectorHeld_write :
    filling.Admits addr0 true (access (some bothLanes)) ∧
      (access (some bothLanes)).isCommand addr0 true (.apertureWrite addr0 bothLanes 1) ∧
      (filling.MayWrite 0 ∧ filling.GuardPasses 0 1 3 ∧ filling.volume 0 = .mounted) ∧
      filling.Hits (access (some bothLanes)) 0 :=
  ⟨admitted _ (by decide +kernel), ⟨rfl, rfl, rfl⟩, by decide +kernel, by unfold State.Hits; decide +kernel⟩
theorem witness_ReadMissStartsFill :
    (volumeIn .mounted).Admits addr0 true (access none) ∧ (volumeIn .mounted).Steady ∧
      (volumeIn .mounted).geometry[(0 : DriveNo)] = some geo ∧ (volumeIn .mounted).volume 0 = .mounted ∧
      (volumeIn .mounted).waiters[(1 : Requester)] = .empty ∧ (volumeIn .mounted).lookup (access none).key = none ∧
      (volumeIn .mounted).freeList = 0 :: (List.range 64).tail ∧ 0 < (volumeIn .mounted).slots.length ∧
      (volumeIn .mounted).drives[(0 : DriveNo)].queue = [] ∧ (volumeIn .mounted).drives[(0 : DriveNo)].media = .stopped ∧
      (volumeIn .mounted).drives[(0 : DriveNo)].head = some 10 :=
  ⟨admitted _ (by decide +kernel), by decide +kernel⟩

/-- No slot is FREE: each holds a track of head 0 with a DIRTY sector, slot 63 the least recent. -/
def full (failed : Bool) : State :=
  { volumeIn .mounted with
    slots := (List.range 64).map (fun j =>
      { slotWith .resident { state := .dirty, report := false } with
        key := some { drive := 0, cylinder := j, head := 0 }
        writeFailed := failed })
    freeList := []
    recency := List.range 64 }

theorem witness_ReadMissStartsFill_starved :
    (full true).Admits addr0 true (access none) ∧ (full true).Steady ∧ (full true).waiters[(1 : Requester)] = .empty ∧
      (full true).lookup (access none).key = none ∧ (full true).freeList = [] ∧
      (∀ j ∈ (full true).recency, ¬ (full true).Reusable j) ∧ ∀ j ∈ (full true).recency, ¬ (full true).Evictable j :=
  ⟨admitted _ (by decide +kernel), by decide +kernel⟩
theorem witness_ReadMissStartsFill_eviction :
    (full false).Admits addr0 true (access none) ∧ (full false).Steady ∧ (full false).waiters[(1 : Requester)] = .empty ∧
      (full false).lookup (access none).key = none ∧ (full false).freeList = [] ∧
      (∀ j ∈ (full false).recency, ¬ (full false).Reusable j) ∧ (full false).recency = List.range 63 ++ 63 :: [] ∧
      (full false).Evictable 63 ∧ ((full false).slot 63).key = some { drive := 0, cylinder := 63, head := 0 } ∧
      (full false).drives[(0 : DriveNo)].queue = [] ∧ (full false).drives[(0 : DriveNo)].media = .stopped :=
  ⟨admitted _ (by decide +kernel), by decide +kernel⟩

/-- The timeout action HOLD. -/
def holds (s : State) : State := { s with settings := { s.settings with timeoutAction := 0 } }

theorem witness_ExpiredWaitAnswered :
    (withWait filling (waiting (.expired .onFill))).Admits addr0 true (access none) ∧
      (withWait filling (waiting (.expired .onFill))).Hits (access none) 0 ∧
      (((withWait filling (waiting (.expired .onFill))).slot 0).sector (access none).place.sector).state = .absent ∧
      (withWait filling (waiting (.expired .onFill))).waiters[(1 : Requester)] = .wait (waiting (.expired .onFill)) ∧
      (waiting (.expired .onFill)).key = (access none).key ∧
      (waiting (.expired .onFill)).sector = (access none).place.sector ∧
      (withWait filling (waiting (.expired .onFill))).settings.timeoutAction = 1 :=
  ⟨admitted _ (by decide +kernel), by unfold State.Hits; decide +kernel, by decide +kernel⟩
theorem witness_ExpiredWaitAnswered_hold :
    (holds (withWait filling (waiting (.expired .onFill)))).Admits addr0 true (access none) ∧
      (holds (withWait filling (waiting (.expired .onFill)))).Hits (access none) 0 ∧
      (holds (withWait filling (waiting (.expired .onFill)))).settings.timeoutAction = 0 :=
  ⟨admitted _ (by decide +kernel), by unfold State.Hits; decide +kernel, by decide +kernel⟩
theorem witness_FailedWaitAnswered :
    (withWait (volumeIn .mounted) (waiting (.failed (.drive .noIndex)))).Admits addr0 true (access none) ∧
      (withWait (volumeIn .mounted) (waiting (.failed (.drive .noIndex)))).waiters[(1 : Requester)] =
        .wait (waiting (.failed (.drive .noIndex))) ∧
      (waiting (.failed (.drive .noIndex))).key = (access none).key ∧
      (waiting (.failed (.drive .noIndex))).sector = (access none).place.sector :=
  ⟨admitted _ (by decide +kernel), by decide +kernel⟩
theorem witness_FailedWaitAnswered_volumeLost :
    (withWait (volumeIn .lost) (waiting (.failed .volumeLost))).Admits addr0 true (access none) ∧
      (withWait (volumeIn .lost) (waiting (.failed .volumeLost))).waiters[(1 : Requester)] =
        .wait (waiting (.failed .volumeLost)) := ⟨admitted _ (by decide +kernel), by decide +kernel⟩
theorem witness_FailedWaitAnswered_noVolume :
    (withWait (volumeIn .mounted) (waiting (.failed .noVolume))).Admits addr0 true (access none) ∧
      (withWait (volumeIn .mounted) (waiting (.failed .noVolume))).waiters[(1 : Requester)] =
        .wait (waiting (.failed .noVolume)) := ⟨admitted _ (by decide +kernel), by decide +kernel⟩

/-! ### Witnesses: Control Block writes -/

theorem witness_ControlBlockWriteRetriedWhileStopped :
    cbWriteOf (.mount 3 none 0) = some (0x100, { lo := some 1, hi := none }, 0) ∧
      ({ lo := some 1, hi := none } : Lanes).enabled = true ∧ State.reset.phase ≠ .running := by decide +kernel
theorem witness_FieldsHeldAgainstWrites_requester :
    cbWriteOf (.settingsWrite 3 bothLanes 7) = some (0x16, bothLanes, 7) ∧ bothLanes.enabled = true ∧ (7 : Requester) ≠ 0 ∧
      running.phase = .running := by decide +kernel
/-- The words at the ends of the ranges that the host may not change. -/
theorem witness_FieldsHeldAgainstWrites_host :
    running.phase = .running ∧ bothLanes.enabled = true ∧
      ∀ i ∈ ([0x00, 0x07, 0x0C, 0x0F, 0x14, 0x1F, 0x28, 0x2A, 0x9F, 0xA1, 0xC7, 0xC8, 0xFF] : List (Fin 256)),
        i.val < 0x08 ∨ (0x0C ≤ i.val ∧ i.val < 0x10) ∨ (0x14 ≤ i.val ∧ i.val < 0x20) ∨
          (0x20 ≤ i.val ∧ i.val < 0xA0 ∧ 0x08 ≤ (i.val - 0x20) % 0x20 ∧ (i.val - 0x20) % 0x20 ≠ 0x09) ∨
          (0xA0 ≤ i.val ∧ i.val < 0xC8 ∧ (i.val - 0xA0) % 8 ≠ 0) ∨ 0xC8 ≤ i.val := by decide +kernel

/-- Every drive has an outcome, every Fault Record a code. -/
def reported : State :=
  { running with
    records := updAll running.records (fun m => { m with outcome := .busy })
    faults := updAll running.faults (fun f => { f with code := .unpopulated }) }

theorem witness_ClearsEmptyOutcomeAndFault :
    reported.phase = .running ∧ (∀ d : DriveNo, reported.records[d].outcome ≠ .none) ∧
      ∀ f : Fin 5, reported.faults[f].code ≠ .none := by decide +kernel
theorem witness_SettingsClampedAndTaken : running.phase = .running ∧ bothLanes.enabled = true := by decide +kernel
/-- A wait of 10 s against the highest limit. -/
theorem witness_LoweredWaiterLimitExpiresWaits :
    (withWait { running with now := { ms := 10000, seq := 1 } } (waiting (.hold .onFill))).phase = .running ∧
      BitVec.toNat (100 : Byte) ≤ 100 ∧
      (waiting (.hold .onFill)).start.ms + BitVec.toNat (100 : Byte) * 100 ≤
        (withWait { running with now := { ms := 10000, seq := 1 } } (waiting (.hold .onFill))).now.ms := by decide +kernel
theorem witness_ClassTableTaken : running.phase = .running ∧ bothLanes.enabled = true := by decide +kernel
theorem witness_WriteAllowTaken : running.phase = .running := by decide +kernel

/-- Drive 0's guard LOCKED. -/
def locked : State := { running with records := upd running.records 0 (fun m => { m with host := { m.host with guardLock := true } }) }

theorem witness_GuardFieldsFollowLock_open :
    running.phase = .running ∧ running.records[(0 : DriveNo)].host.guardLock = false ∧
      GuardWord.covered .extentEnd bothLanes = true ∧
      GuardWord.covered .complement { lo := some 1, hi := none } = true ∧
      GuardWord.covered .exempt bothLanes = true := by decide +kernel
theorem witness_GuardFieldsFollowLock_locked :
    locked.phase = .running ∧ locked.records[(0 : DriveNo)].host.guardLock = true := by decide +kernel

/-! ### Witnesses: requests -/

/-- One drive strapped. -/
def oneDrive : State := { running with straps := { running.straps with driveCount := 0 } }

/-- A discard pending on drive 0. -/
def discarding : State :=
  { volumeIn .mounted with records := upd (volumeIn .mounted).records 0 (fun m => { m with pendingDiscard := true }) }

theorem witness_RequestsDecided_absent :
    oneDrive.phase = .running ∧ Instr.flush 1 none 0 = Request.flush.command 1 none 0 ∧ (2 : Byte) = Request.flush.byte ∧
      oneDrive.straps.drives ≤ (1 : DriveNo).val := by decide +kernel
theorem witness_RequestsDecided_pending :
    discarding.phase = .running ∧ (0 : DriveNo).val < discarding.straps.drives ∧
      discarding.records[(0 : DriveNo)].pendingDiscard = true := by decide +kernel
theorem witness_RequestsDecided_refused :
    running.phase = .running ∧ (3 : DriveNo).val < running.straps.drives ∧
      running.records[(3 : DriveNo)].pendingDiscard = false ∧ Request.thaw.decided (running.volume 3) = some .noVolume := by
  decide +kernel
theorem witness_RequestsDecided_unknown : running.phase = .running ∧ 8 ≤ BitVec.toNat (8 : Byte) ∧
    (0 : DriveNo).val < running.straps.drives := by decide +kernel
theorem witness_MountTaken :
    (volumeIn .unmounted).Steady ∧ (0 : DriveNo).val < (volumeIn .unmounted).straps.drives ∧
      (volumeIn .unmounted).volume 0 = .unmounted ∧ (volumeIn .unmounted).records[(0 : DriveNo)].pendingDiscard = false ∧
      (volumeIn .unmounted).drives[(0 : DriveNo)].queue = [] ∧
      (volumeIn .unmounted).drives[(0 : DriveNo)].media = .stopped := by decide +kernel
theorem witness_CleanFlushFreezeAndThawDone_flush :
    (volumeIn .mounted).Steady ∧ (0 : DriveNo).val < (volumeIn .mounted).straps.drives ∧
      (volumeIn .mounted).volume 0 = .mounted ∧ (volumeIn .mounted).records[(0 : DriveNo)].pendingDiscard = false ∧
      (volumeIn .mounted).dirtyCount 0 = 0 := by decide +kernel
theorem witness_CleanFlushFreezeAndThawDone_thaw :
    (volumeIn .freezing).phase = .running ∧ (0 : DriveNo).val < (volumeIn .freezing).straps.drives ∧
      (volumeIn .freezing).volume 0 = .freezing ∧
      (volumeIn .freezing).records[(0 : DriveNo)].pendingDiscard = false := by decide +kernel

theorem witness_FlushWritesDirtySlot :
    (dirtied .mounted).Steady ∧ (dirtied .mounted).volume 0 = .mounted ∧
      (dirtied .mounted).records[(0 : DriveNo)].pendingDiscard = false ∧ (dirtied .mounted).unwrittenSlots 0 = [0] ∧
      0 < (dirtied .mounted).slots.length ∧ ((dirtied .mounted).slot 0).key = some key0 ∧
      ((dirtied .mounted).slot 0).state = .resident ∧ (dirtied .mounted).drives[(0 : DriveNo)].queue = [] ∧
      (dirtied .mounted).drives[(0 : DriveNo)].media = .stopped := by
  decide +kernel
theorem witness_ReleaseAndDiscardEmptyDrive_release :
    (holding (slotWith .resident { state := .valid, report := false })).Steady ∧
      (holding (slotWith .resident { state := .valid, report := false })).records[(0 : DriveNo)].pendingDiscard = false ∧
      (holding (slotWith .resident { state := .valid, report := false })).drives[(0 : DriveNo)].queue = [] ∧
      (holding (slotWith .resident { state := .valid, report := false })).NoSlotWaits ∧
      (holding (slotWith .resident { state := .valid, report := false })).volume 0 = .mounted ∧
      (holding (slotWith .resident { state := .valid, report := false })).dirtyCount 0 = 0 := by decide +kernel
theorem witness_ReleaseAndDiscardEmptyDrive_discard :
    (dirtied .frozen).Steady ∧ (dirtied .frozen).records[(0 : DriveNo)].pendingDiscard = false ∧
      (dirtied .frozen).drives[(0 : DriveNo)].queue = [] ∧ (dirtied .frozen).NoSlotWaits ∧
      (dirtied .frozen).volume 0 = .frozen ∧ (dirtied .frozen).writingField 0 = false := by decide +kernel

/-- Requester 1 waits for a slot for a track of drive 1, whose volume is MOUNTED and whose motor is stopped. -/
def slotWaiting (s : State) : State :=
  { s with
    geometry := upd s.geometry 1 (fun _ => some geo)
    records := upd s.records 1 (fun m => { m with state := .mounted })
    drives := upd s.drives 1 (fun v => { v with media := .stopped, head := some 10 })
    freeList := []
    waiters := upd s.waiters 1 (fun _ => .wait { waiting (.hold .slotWait) with key := { key0 with drive := 1 } }) }

theorem witness_ReleaseAndDiscardEmptyDrive_grant :
    ∀ s ∈ [slotWaiting (holding (slotWith .resident { state := .valid, report := false })), slotWaiting (dirtied .frozen)],
      s.Steady ∧ s.records[(0 : DriveNo)].pendingDiscard = false ∧ s.drives[(0 : DriveNo)].queue = [] ∧
        s.waiters[(1 : Requester)] = .wait { waiting (.hold .slotWait) with key := { key0 with drive := 1 } } ∧
        (∀ r : Requester, r ≠ 1 → s.slotWait r = none) ∧ s.volume 1 = .mounted ∧ s.geometry[(1 : DriveNo)] = some geo ∧
        s.lookup { key0 with drive := 1 } = none ∧ s.freeList = [] ∧ s.slotsOf 0 = [0] ∧
        s.drives[(1 : DriveNo)].queue = [] ∧ s.drives[(1 : DriveNo)].media = .stopped ∧
        ((s.volume 0 = .mounted ∧ s.dirtyCount 0 = 0) ∨ (s.volume 0 = .frozen ∧ s.writingField 0 = false)) := by
  decide +kernel
theorem witness_DiscardWaitsForSector :
    writingState.phase = .running ∧ (0 : DriveNo).val < writingState.straps.drives ∧
      writingState.records[(0 : DriveNo)].pendingDiscard = false ∧ writingState.volume 0 = .mounted ∧
      writingState.writingField 0 = true := by decide +kernel
theorem witness_ReclaimProbesStamp_refused :
    (volumeIn .lost).phase = .running ∧ (volumeIn .lost).records[(1 : DriveNo)].stamp = none ∧
      (0 : DriveNo).val < (volumeIn .lost).straps.drives ∧ (volumeIn .lost).volume 0 = .lost := by decide +kernel
theorem witness_ReclaimProbesStamp_taken :
    (volumeIn .lost).Steady ∧ (volumeIn .lost).volume 0 = .lost ∧ (volumeIn .lost).records[(0 : DriveNo)].stamp ≠ none ∧
      (volumeIn .lost).records[(0 : DriveNo)].pendingDiscard = false ∧
      (volumeIn .lost).drives[(0 : DriveNo)].media = .stopped ∧ (volumeIn .lost).drives[(0 : DriveNo)].queue = [] := by decide +kernel

/-! ### Witnesses: doors, motors and timers -/

theorem witness_DoorMovesMedia_open :
    (0 : DriveNo).val < (volumeIn .unmounted).straps.drives ∧ (volumeIn .unmounted).volume 0 = .unmounted ∧
      (volumeIn .unmounted).Steady ∧ (volumeIn .unmounted).drives[(0 : DriveNo)].queue = [] := by decide +kernel
theorem witness_DoorMovesMedia_close :
    (3 : DriveNo).val < running.straps.drives ∧ running.drives[(3 : DriveNo)].media = .noMedia ∧ running.phase = .running := by
  decide +kernel
theorem witness_DoorMovesMedia_absent : oneDrive.straps.drives ≤ (1 : DriveNo).val := by decide +kernel
theorem witness_DoorOpenStrandsDirtySlots :
    (0 : DriveNo).val < (dirtied .mounted).straps.drives ∧ (dirtied .mounted).volume 0 ≠ .unmounted ∧
      (dirtied .mounted).Steady ∧ (dirtied .mounted).drives[(0 : DriveNo)].queue = [] ∧ (dirtied .mounted).NoSlotWaits ∧
      ∀ k, k < (dirtied .mounted).slots.length → ((dirtied .mounted).slot k).onDrive 0 = true →
        ((dirtied .mounted).slot k).state = .resident ∨ ((dirtied .mounted).slot k).state = .stranded := by decide +kernel

/-- Of drive 0 one slot dirty and one STRANDED, while requester 1 waits for a slot. -/
theorem witness_DoorOpenStrandsDirtySlots_waiter :
    let s : State := slotWaiting { dirtied .mounted with
      slots := (dirtied .mounted).slots.set 1
        { slotWith .stranded { state := .dirty, report := false } with key := some { key0 with head := 0 } } }
    (0 : DriveNo).val < s.straps.drives ∧ s.volume 0 ≠ .unmounted ∧ s.Steady ∧ s.drives[(0 : DriveNo)].queue = [] ∧
      (∀ k, k < s.slots.length → (s.slot k).onDrive 0 = true → (s.slot k).state = .resident → (s.slot k).dirty = true) ∧
      ∀ k, k < s.slots.length → (s.slot k).onDrive 0 = true → (s.slot k).state = .resident ∨ (s.slot k).state = .stranded := by
  decide +kernel

/-- R48, R57: a removal that frees no slot is no release event, so a requester that waits for a slot is granted none even
where one stands free. -/
theorem test_door_open_without_a_freed_slot_grants_none :
    (match exec (.doorOpen 0 pinsUp) { slotWaiting (dirtied .mounted) with freeList := [5] } with
    | .next t => decide (t.freeList = [5] ∧ t.slotWait 1 ≠ none ∧ t.drives[(1 : DriveNo)].queue = [])
    | _ => false) = true := by
  decide +kernel

/-- R152: a record is stored whole at its capture, also before the default writing has come to it. -/
theorem test_fault_captured_during_default_writing :
    (match exec (.unpopulatedCycle 0x80000 (.read true true) 3) State.reset with
    | .next t =>
      decide ((List.range 8).map (fun i => t.shown (0x180 + i)) = [0x10, 0x00, 0x03, 0xFF, 0xFF, 0xFF, 0xFF, 0x00])
    | _ => false) = true := by
  decide +kernel

/-- Drive 0 otherwise than volumeIn has it. -/
def driving (f : Drive → Drive) : State := { volumeIn .mounted with drives := upd (volumeIn .mounted).drives 0 f }

/-- A FILL that seeks. -/
def seeker : Op := opOn (.fill 0 0) .normal .seeking

def spinning : State := driving (fun v => { v with media := .starting, spinUp := some 7 })
def spinningFor : State :=
  driving (fun v => { v with media := .starting, spinUp := some 7, queue := [seeker], current := true, move := .spinUp, head := some 3 })

theorem witness_SpinUpEnds_idle :
    spinning.Steady ∧ spinning.drives[(0 : DriveNo)].spinUp = some 7 ∧ spinning.drives[(0 : DriveNo)].media = .starting ∧
      spinning.drives[(0 : DriveNo)].currentOp = none := by decide +kernel
theorem witness_SpinUpEnds_seek :
    spinningFor.Steady ∧ spinningFor.drives[(0 : DriveNo)].spinUp = some 7 ∧
      spinningFor.drives[(0 : DriveNo)].media = .starting ∧ spinningFor.drives[(0 : DriveNo)].currentOp = some seeker ∧
      seeker.phase = .seeking ∧ spinningFor.drives[(0 : DriveNo)].move = .spinUp ∧
      spinningFor.drives[(0 : DriveNo)].step = none ∧ spinningFor.drives[(0 : DriveNo)].head = some seeker.cylinder ∧
      pinsUp.ready.getLsbD 0 = true := by decide +kernel
theorem witness_IdleTimersStopDrive_unload :
    (driving (fun v => { v with media := .loaded, headUnload := some 7 })).drives[(0 : DriveNo)].current = false ∧
      (driving (fun v => { v with media := .loaded, headUnload := some 7 })).drives[(0 : DriveNo)].media = .loaded ∧
      (driving (fun v => { v with media := .loaded, headUnload := some 7 })).drives[(0 : DriveNo)].headUnload = some 7 := by
  decide +kernel
theorem witness_IdleTimersStopDrive_motor :
    (driving (fun v => { v with media := .running, motorIdle := some 7 })).drives[(0 : DriveNo)].current = false ∧
      (driving (fun v => { v with media := .running, motorIdle := some 7 })).drives[(0 : DriveNo)].media = .running ∧
      (driving (fun v => { v with media := .running, motorIdle := some 7 })).drives[(0 : DriveNo)].motorIdle = some 7 ∧
      (driving (fun v => { v with media := .running, motorIdle := some 7 })).settings.motorIdle ≠ 0 := by decide +kernel
theorem witness_IdleTimersStopDrive_never :
    ({ driving (fun v => { v with media := .running, motorIdle := some 7 }) with
      settings := { running.settings with motorIdle := 0 } } : State).settings.motorIdle = 0 := by decide +kernel
theorem witness_WaitsExpireAndOperationsRise_wait :
    (withWait running (waiting (.hold .onFill))).waiters[(1 : Requester)] = .wait (waiting (.hold .onFill)) ∧
      (waiting (.hold .onFill)).exceeded = false ∧
      (withWait running (waiting (.hold .onFill))).settings.waiterLimit ≠ 0 := by decide +kernel
theorem witness_WaitsExpireAndOperationsRise_operation :
    (driving (fun v => { v with queue := [seeker, opOn (.fill 1 0) .background .queued] })).drives[(0 : DriveNo)].opOf (some 1) =
        some (opOn (.fill 1 0) .background .queued) ∧
      (opOn (.fill 1 0) .background .queued).cls ≠ .urgent ∧
      (driving (fun v => { v with queue := [seeker, opOn (.fill 1 0) .background .queued] })).settings.promotionInterval ≠ 0 := by
  decide +kernel

/-- A dirty slot with an age. -/
def aged : State :=
  holding { slotWith .resident { state := .dirty, report := false } with dirtySince := some 7 }

theorem witness_AgedSlotIsWritten :
    aged.Steady ∧ (aged.slot 0).state = .resident ∧ (aged.slot 0).key = some key0 ∧ (aged.slot 0).dirtySince = some 7 ∧
      (aged.slot 0).writeFailed = false ∧ aged.drives[(0 : DriveNo)].queue = [] ∧
      aged.drives[(0 : DriveNo)].media = .stopped := by decide +kernel

/-! ### Witnesses: seeks, index pulses and passes -/

/-- Drive 0 seeks for a FILL: LOADED, its index watch running. -/
def seeking (f : Drive → Drive) : State :=
  driving (fun v => f { v with media := .loaded, queue := [seeker], current := true, watch := some 0 })

/-- A step under way. -/
def stepIn : StepUnderWay := { inward := true, due := 15 }

def stepping (h : Nat) : State :=
  seeking (fun v => { v with head := some h, move := .stepping, step := some stepIn, moved := true })
def recalibrating : State :=
  seeking (fun v => { v with head := none, move := .recalibrating 79, step := some { inward := false, due := 15 }, moved := true })

/-- Drive 0 settles while drive 1 holds the channel. -/
def settling : State :=
  let s := seeking (fun v => { v with move := .settling 20, head := some 3, moved := true })
  { s with
    drives := upd s.drives 1 (fun v =>
      { v with queue := [opOn .probe .normal .transferring], current := true, media := .loaded, head := some 0, watch := some 0 })
    pass := some { passOn (.diskette none) (.searching 0) none with drive := 1, cylinder := 0, head := 0 } }

/-- The target is cylinder 3: a step from 1 ends short of it. -/
theorem witness_SeekAdvances_short :
    (stepping 1).Steady ∧ (stepping 1).drives[(0 : DriveNo)].currentOp = some seeker ∧ seeker.phase = .seeking ∧
      (stepping 1).drives[(0 : DriveNo)].step = some stepIn ∧ (stepping 1).drives[(0 : DriveNo)].move = .stepping ∧
      (stepping 1).drives[(0 : DriveNo)].head = some 1 ∧ min (1 + 1) 76 ≠ seeker.cylinder := by decide +kernel
/-- A step from 2 ends on it. -/
theorem witness_SeekAdvances_arrived :
    (stepping 2).Steady ∧ (stepping 2).drives[(0 : DriveNo)].head = some 2 ∧ min (2 + 1) 76 = seeker.cylinder ∧
      (stepping 2).drives[(0 : DriveNo)].moved = true ∧ (stepping 2).drives[(0 : DriveNo)].media = .loaded := by
  decide +kernel
theorem witness_SeekAdvances_recalibration :
    recalibrating.Steady ∧ recalibrating.drives[(0 : DriveNo)].currentOp = some seeker ∧
      recalibrating.drives[(0 : DriveNo)].step = some { inward := false, due := 15 } ∧
      recalibrating.drives[(0 : DriveNo)].move = .recalibrating 79 ∧ 79 < 80 ∧ pinsUp.track0.getLsbD 0 = false ∧
      recalibrating.drives[(0 : DriveNo)].head = none := by decide +kernel
theorem witness_SeekAdvances_settle :
    settling.Steady ∧ settling.drives[(0 : DriveNo)].currentOp = some seeker ∧
      settling.drives[(0 : DriveNo)].move = .settling 20 ∧ settling.channelHeld = true ∧
      settling.pass.all (fun p => decide (p.drive ≠ 0)) = true := by decide +kernel

/-- A FILL pass that awaits the data field of a position. -/
def fillPass (awaited : Option Nat) : State :=
  passing (holding { slotWith .filling { state := .absent, report := false } with
      sectors := List.replicate 15 { state := .absent, report := false } }) (.fill 0 0) (passOn trackOf (.reading []) awaited)

theorem witness_IndexPulseRestartsWatch :
    (fillPass none).Steady ∧ (0 : DriveNo).val < (fillPass none).straps.drives ∧
      (fillPass none).pass = some (passOn trackOf (.reading []) none) ∧
      (passOn trackOf (.reading []) none).recovering = false ∧ 0 < 3 := by decide +kernel
theorem witness_IndexPulseRestartsWatch_noPass :
    (seeking id).Steady ∧ (seeking id).pass = none := by decide +kernel

/-- A MOUNT's PROBE seeks. -/
def mountSeek : State :=
  let s := volumeIn .mounting
  { s with
    drives := upd s.drives 0 (fun v =>
      { v with queue := [opOn .probe .normal .seeking], current := true, media := .loaded, watch := some 0, move := .stepping }) }

theorem witness_IndexWatchFailsMount :
    mountSeek.Steady ∧ mountSeek.drives[(0 : DriveNo)].watch = some 0 ∧
      mountSeek.drives[(0 : DriveNo)].queue = [opOn .probe .normal .seeking] ∧ mountSeek.volume 0 = .mounting := by
  decide +kernel

/-- A FILL of slot 0 seeks. -/
def fillSeek : State :=
  let s := holding { slotWith .filling { state := .absent, report := false } with
    sectors := List.replicate 15 { state := .absent, report := false } }
  { s with
    drives := upd s.drives 0 (fun v =>
      { v with queue := [seeker], current := true, media := .loaded, watch := some 0, move := .stepping })
    waiters := upd s.waiters 1 (fun _ => .wait (waiting (.expired .onFill))) }

theorem witness_IndexWatchFailsMount_fill :
    fillSeek.Steady ∧ fillSeek.drives[(0 : DriveNo)].watch = some 0 ∧ fillSeek.drives[(0 : DriveNo)].queue = [seeker] ∧
      seeker.work = .fill 0 0 ∧ seeker.phase = .seeking ∧
      key0 = { drive := 0, cylinder := seeker.cylinder, head := seeker.head } ∧ 0 < fillSeek.slots.length ∧
      (fillSeek.slot 0).state = .filling ∧ (fillSeek.slot 0).key = some key0 ∧ (fillSeek.slot 0).dirty = false ∧
      fillSeek.NoSlotWaits := by decide +kernel

/-- The ID field of cylinder c, sector ID 7, which is position 0 of cylinder 3. -/
def idOf (c : Byte) : IdField :=
  let f : IdField := { mfm := true, cylinder := c, head := 1, sectorId := 7, sizeCode := 2, crc := 0 }
  { f with crc := crcOf (addressMark true 0xFE#8 ++ [c, 1, 7, 2]) }

theorem witness_IdFieldClassified_fill :
    (fillPass none).Steady ∧ (fillPass none).pass = some (passOn trackOf (.reading []) none) ∧
      ((fillPass none).slot 0).active = none ∧ (idOf 3).mfm = decide ((2 : Fin 4) ≠ 0) ∧ IdField.good (idOf 3) = true ∧
      (idOf 3).cylinder.toNat = 3 ∧ (idOf 3).head.toNat = 1 ∧ (idOf 3).sizeCode.toNat = 2 ∧
      positionOf (geo.idList 3) (idOf 3).sectorId.toNat = some 0 ∧ 0 < (fillPass none).slots.length ∧
      ((fillPass none).slot 0).key = some key0 ∧ ((fillPass none).slot 0).generation = 0 ∧
      ((fillPass none).slot 0).state = .filling ∧ (((fillPass none).slot 0).sector 0).state = .absent := by decide +kernel

theorem witness_IdFieldClassified_write :
    writePass.Steady ∧ writePass.pass = some (passOn trackOf (.writing [0] []) none) ∧ (writePass.slot 0).active = none ∧
      (writePass.slot 0).state = .writing ∧ ((writePass.slot 0).sector 0).state = .outbound := by decide +kernel
theorem witness_IdFieldClassified_wrongCylinder :
    IdField.good (idOf 4) = true ∧ (idOf 4).cylinder.toNat ≠ 3 ∧ (passOn trackOf (.reading []) none).recals < 2 ∧
      pinsUp.track0.getLsbD 0 = false := by decide +kernel
theorem witness_IdFieldClassified_unreadable : IdField.good { idOf 3 with crc := 0 } = false := by decide +kernel

/-- A data field of zeros with its CRC. -/
def zerosOf (n : Nat) : DataField :=
  { mfm := true, mark := .data, bytes := List.replicate n 0, crc := dataCrc true (List.replicate n 0) }

theorem witness_FillSectorArrives :
    (fillPass (some 0)).Steady ∧ (fillPass (some 0)).pass = some (passOn trackOf (.reading []) (some 0)) ∧
      ((fillPass (some 0)).slot 0).active = none ∧ (zerosOf 512).mfm = decide ((2 : Fin 4) ≠ 0) ∧
      (zerosOf 512).mark = .data ∧ (zerosOf 512).bytes.length = sectorSize 2 ∧ 0 < (fillPass (some 0)).slots.length ∧
      ((fillPass (some 0)).slot 0).state = .filling ∧ ((fillPass (some 0)).slot 0).key = some key0 ∧
      (((fillPass (some 0)).slot 0).sector 0).state = .absent ∧ 14 < ((fillPass (some 0)).slot 0).sectors.length ∧
      (((fillPass (some 0)).slot 0).sector 14).state = .absent := by decide +kernel
/-- A FILL whose last ABSENT sector is awaited, another sector DIRTY. -/
def lastSector : State :=
  passing (holding { slotWith .filling { state := .absent, report := false } with
      sectors := { state := .absent, report := false } :: { state := .dirty, report := false } ::
        List.replicate 13 { state := .valid, report := false } }) (.fill 0 0) (passOn trackOf (.reading []) (some 0))

set_option maxRecDepth 100000 in
theorem witness_FillSectorArrives_last :
    (lastSector.Steady ∧ lastSector.pass = some (passOn trackOf (.reading []) (some 0)) ∧
      (lastSector.slot 0).active = none ∧ (zerosOf 512).mfm = decide ((2 : Fin 4) ≠ 0) ∧
      (zerosOf 512).bytes.length = sectorSize 2 ∧ DataField.good (zerosOf 512) = true ∧ 0 < lastSector.slots.length ∧
      (lastSector.slot 0).state = .filling ∧ (lastSector.slot 0).key = some key0 ∧ (lastSector.slot 0).generation = 0 ∧
      0 < (lastSector.slot 0).sectors.length ∧ ((lastSector.slot 0).sector 0).state = .absent ∧
      (∀ j, j < (lastSector.slot 0).sectors.length → j ≠ 0 → ((lastSector.slot 0).sector j).state ≠ .absent) ∧
      (lastSector.slot 0).pendingWrite = none ∧ lastSector.settings.writeBackDelay ≠ 0) ∧ lastSector.OnlyOperation 0 0 :=
  ⟨by decide +kernel, ⟨_, rfl, rfl, rfl⟩, by decide +kernel⟩
theorem witness_WrittenFieldEnds :
    writingState.Steady ∧ writingState.pass = some (passOn trackOf (.writing [0] []) none) ∧
      (writingState.slot 0).active = some 0 ∧ ((writingState.slot 0).sector 0).state = .outbound ∧
      0 < (writingState.slot 0).sectors.length ∧ 0 < writingState.slots.length ∧
      writingState.records[(0 : DriveNo)].pendingDiscard = false ∧ writingState.urgentElsewhere 0 = false := by decide +kernel

/-- The same target with verify off. -/
def unverified : Target := .track 0 key0 0 (geo.idList 3) 2 false

/-- R122: a removal in a write round with verify off strands the slot; the sector that the round has ended is DIRTY again, and the
VALID sectors beside it stay VALID. -/
theorem test_removal_reopens_ended_sector :
    (match exec (.doorOpen 0 pinsUp) (passing
      (holding { slotWith .writing { state := .valid, report := false } with
        sectors := [{ state := .valid, report := false }, { state := .outbound, report := false },
          { state := .valid, report := false }] })
      (.write 0 0 false) (passOn unverified (.writing [1] [0]) none)) with
    | .next t => decide ((t.slot 0).state = .stranded ∧ t.volume 0 = .lost ∧
        (t.slot 0).sectors.map (fun e => e.state) = [.dirty, .dirty, .valid])
    | _ => false) = true := by
  decide +kernel

/-- The last field of a WRITE pass with verify off. -/
def lastField : State :=
  passing (holding { slotWith .writing { state := .outbound, report := false } with active := some 0 }) (.write 0 0 false)
    (passOn unverified (.writing [0] []) none)

theorem witness_WrittenFieldEnds_end :
    (lastField.Steady ∧ lastField.pass = some (passOn unverified (.writing [0] []) none) ∧
      (lastField.slot 0).active = some 0 ∧ [0].erase 0 = [] ∧ ((lastField.slot 0).sector 0).state = .outbound ∧
      0 < (lastField.slot 0).sectors.length ∧ 0 < lastField.slots.length) ∧
      (∀ j, j ≠ 0 → ((lastField.slot 0).sector j).state = .valid ∨ ((lastField.slot 0).sector j).state = .damaged) ∧
      ((lastField.slot 0).state = .writing ∧ (lastField.slot 0).key = some key0 ∧ (lastField.slot 0).generation = 0 ∧
      lastField.records[(0 : DriveNo)].pendingDiscard = false ∧ lastField.records[(0 : DriveNo)].flushSet = [] ∧
      lastField.NoSlotWaits) ∧ lastField.OnlyOperation 0 0 := by
  refine ⟨by decide +kernel, fun j hj => .inl ?_, by decide +kernel, ⟨_, rfl, rfl, rfl⟩, by decide +kernel⟩
  exact sector_other .writing { state := .outbound, report := false } hj

/-- An URGENT FILL of drive 1, POSITIONED, with its slot. -/
def urgentFill : Op := opOn (.fill 1 0) .urgent (.positioned { ms := 0, seq := 0 })

/-- Two sectors OUTBOUND, the first active, while that FILL waits for the channel. -/
def yielding : State :=
  let s := passing (holding { slotWith .writing { state := .outbound, report := false } with
      sectors := { state := .outbound, report := false } :: { state := .outbound, report := false } ::
        { state := .written, report := false } :: List.replicate 12 { state := .valid, report := false }
      active := some 0 }) (.write 0 0 false) (passOn trackOf (.writing [0, 1] [2]) none)
  { s with
    slots := s.slots.set 1
      { slotWith .filling { state := .absent, report := false } with key := some { key0 with drive := 1 } }
    geometry := upd s.geometry 1 (fun _ => some geo)
    records := upd s.records 1 (fun m => { m with state := .mounted })
    drives := upd s.drives 1 (fun v =>
      { v with queue := [urgentFill], current := true, media := .loaded, head := some 3, watch := some 0 }) }

theorem witness_WrittenFieldEnds_yield :
    yielding.Steady ∧ yielding.pass = some (passOn trackOf (.writing [0, 1] [2]) none) ∧ (yielding.slot 0).active = some 0 ∧
      1 ∈ [0, 1].erase 0 ∧ ((yielding.slot 0).sector 1).state = .outbound ∧ 1 < (yielding.slot 0).sectors.length ∧
      0 < yielding.slots.length ∧ (yielding.slot 0).state = .writing ∧
      yielding.records[(0 : DriveNo)].pendingDiscard = false ∧ yielding.records[(0 : DriveNo)].flushSet = [] ∧
      (yielding.slot 0).yields < yielding.settings.yieldLimit.toNat ∧
      yielding.drives[(0 : DriveNo)].queue = [opOn (.write 0 0 false) .normal .transferring] ∧
      yielding.drives[(0 : DriveNo)].media = .loaded ∧ yielding.drives[(0 : DriveNo)].head = some 3 ∧
      yielding.drives[(0 : DriveNo)].step = none ∧ yielding.drives[(1 : DriveNo)].queue = [urgentFill] ∧
      urgentFill.cls = .urgent ∧ urgentFill.work = .fill 1 0 ∧ (yielding.slot 1).holds .absent = true ∧
      pinsUp.ready.getLsbD 1 = true ∧ ∀ x : DriveNo, x ≠ 1 → yielding.drives[x].positionedOp = none := by decide +kernel

/-- Two sectors written and to be verified. -/
def verifying : State :=
  passing (holding { slotWith .writing { state := .written, report := false } with
      sectors := List.replicate 15 { state := .written, report := false } }) (.write 0 0 false)
    (passOn trackOf (.verifying [0, 1] []) (some 0))

theorem witness_VerifyResultApplied :
    verifying.Steady ∧ verifying.pass = some (passOn trackOf (.verifying [0, 1] []) (some 0)) ∧
      (verifying.slot 0).active = none ∧ (zerosOf 512).bytes.length = sectorSize 2 ∧ [0, 1].erase 0 ≠ [] ∧
      0 < verifying.slots.length ∧ (verifying.slot 0).state = .writing ∧ (verifying.slot 0).key = some key0 ∧
      (verifying.slot 0).generation = 0 ∧ ((verifying.slot 0).sector 0).state = .written ∧
      0 < (verifying.slot 0).sectors.length := by decide +kernel

/-- One sector written and left to be verified. -/
def lastVerify : State :=
  passing (holding (slotWith .writing { state := .written, report := false })) (.write 0 0 false)
    (passOn trackOf (.verifying [0] []) (some 0))

set_option maxRecDepth 100000 in
theorem witness_VerifyResultApplied_last :
    (lastVerify.Steady ∧ lastVerify.pass = some (passOn trackOf (.verifying [0] []) (some 0)) ∧
      (lastVerify.slot 0).active = none ∧ 0 < lastVerify.slots.length ∧ (lastVerify.slot 0).state = .writing ∧
      (lastVerify.slot 0).key = some key0 ∧ (lastVerify.slot 0).generation = 0 ∧
      ((lastVerify.slot 0).sector 0).state = .written ∧ 0 < (lastVerify.slot 0).sectors.length) ∧
      (∀ j, j ≠ 0 → ((lastVerify.slot 0).sector j).state = .valid ∨ ((lastVerify.slot 0).sector j).state = .damaged) ∧
      (lastVerify.records[(0 : DriveNo)].flushSet = [] ∧ lastVerify.NoSlotWaits) ∧ lastVerify.OnlyOperation 0 0 ∧
      DataField.good (zerosOf 512) = true ∧ DataField.good { zerosOf 512 with crc := 0 } = false ∧
      (passOn trackOf (.verifying [0] []) (some 0)).rewrites = 0 := by
  refine ⟨by decide +kernel, fun j hj => .inl ?_, by decide +kernel, ⟨⟨_, rfl, rfl, rfl⟩, by decide +kernel⟩,
    by decide +kernel⟩
  exact sector_other .writing { state := .written, report := false } hj

/-- A MOUNT's PROBE reads the label sector of a diskette with size code 2. -/
def labelling : State :=
  let s := passing (volumeIn .mounting) .probe (passOn (.diskette none) (.label 2) (some 0))
  { s with pass := s.pass.map (fun p => { p with cylinder := 0, head := 0 }) }

set_option maxRecDepth 100000 in
theorem witness_GoodLabelCompletesMount :
    labelling.Steady ∧ labelling.pass.all (fun p => decide (p.drive = 0 ∧ p.target = .diskette none ∧ p.round = .label 2 ∧
        p.recovering = false ∧ p.awaited = some 0)) = true ∧
      (zerosOf 512).mfm = decide ((2 : Fin 4) ≠ 0) ∧ (zerosOf 512).bytes.length = sectorSize 2 ∧
      DataField.good (zerosOf 512) = true ∧ labelling.volume 0 = .mounting ∧
      labelling.drives[(0 : DriveNo)].queue = [opOn .probe .normal .transferring] ∧
      labelling.drives[(0 : DriveNo)].media = .loaded ∧ labelling.settings.headUnload ≠ 0 ∧
      ∀ e : DriveNo, labelling.drives[e].positionedOp = none := by decide +kernel

/-! ### Witnesses: arithmetic and invariants -/

theorem witness_OffsetDecomposes :
    geo.heads = 2 ∧ 1182718 < geo.volumeSize ∧ 1182718 % 2 = 0 := by decide +kernel
theorem witness_SectorIdsCoverTrack : 15 = sectorsPerTrack geo.size ∧ Nat.gcd geo.interleave 15 = 1 := by decide +kernel
theorem witness_InterleaveClamp :
    15 = sectorsPerTrack 2 ∧ 0 = BitVec.toNat (30 : Byte) % 15 ∧ Nat.gcd 10 15 ≠ 1 ∧ Nat.gcd 14 15 = 1 := by decide +kernel
theorem witness_StampSums : (0x00 : Byte) ≠ 0x01 ∧ ¬ ((0x00 : Byte) = 0x00 ∧ (0x01 : Byte) = 0xFF) ∧
    ¬ ((0x00 : Byte) = 0xFF ∧ (0x01 : Byte) = 0x00) := by decide +kernel

/-- A state right after reset with a host write waiting. -/
def commanded : State := { State.reset with pending := [.writeAllowWrite 0 1 none 0] }

theorem witness_TablesStaySound :
    ∃ t, step commanded = .next t ∧ Memory.wf commanded.mem ∧ commanded.SlotsSized ∧ commanded.HostNotBarred ∧
      commanded.settings.InRange ∧ commanded.HostInRange :=
  ⟨_, rfl, by decide +kernel, by unfold State.SlotsSized; decide +kernel, by unfold State.HostNotBarred; decide +kernel,
    by unfold Settings.InRange; decide +kernel, by unfold State.HostInRange HostFields.InRange; decide +kernel⟩
/-- Two drives with operations, one of them holding the channel. -/
theorem witness_TablesStaySound_queues : settling.QueuesSound := by
  unfold State.QueuesSound Drive.QueueSound; decide +kernel
/-- A slot WRITING with its active sector, and all others FREE. -/
theorem witness_TablesStaySound_directory : writingState.DirectorySound := by
  have h0 : writingState.slot 0 =
      { slotWith .writing { state := .outbound, report := false } with active := some 0 } := rfl
  have hk : ∀ k, k ≠ 0 → writingState.slot k = Slot.blank := fun k h => slot_other .mounted _ h
  have hl : writingState.slots.length = 64 := rfl
  have hm : ∀ k, k ∈ writingState.freeList ↔ k < 64 ∧ k ≠ 0 := fun k => by
    show k ∈ (List.range 64).tail ↔ _
    rw [show (List.range 64).tail = List.range' 1 63 from rfl, List.mem_range'_1]; omega
  refine ⟨by decide +kernel, fun k => ?_, by decide +kernel, fun k => ?_, fun k _ => ?_, fun j k _ _ h h' => ?_, fun k h => ?_⟩
  · rw [hm, hl]
    refine and_congr_right fun _ => ⟨fun h => by rw [hk k h]; rfl, fun h e => ?_⟩
    rw [e, h0] at h; cases h
  · rw [hl, show writingState.recency = [0] from rfl, List.mem_singleton]
    refine ⟨fun h => ⟨by omega, by rw [h, h0]; decide⟩, fun h => by_contra fun e => h.2 (by rw [hk k e]; rfl)⟩
  · by_cases e : k = 0
    · rw [e, h0]; exact ⟨fun h => (by cases h), fun h => (by cases h)⟩
    · rw [hk k e]; exact ⟨fun _ => rfl, fun _ => rfl⟩
  · have hj : j = 0 := by_contra fun e => h' (by rw [hk j e]; rfl)
    have hz : k = 0 := by_contra fun e => h' (by rw [h, hk k e]; rfl)
    rw [hj, hz]
  · have e : k = 0 := by_contra fun e => h (by rw [hk k e]; rfl)
    rw [e, h0]; rfl
theorem witness_ControlBlockShowsCopies : ∃ t, step commanded = .next t ∧ commanded.CopiesShown := by
  refine ⟨_, rfl, fun o b ho hb => ?_⟩
  have ho : o < 2 := ho
  interval_cases o <;> cases hb <;> decide +kernel
theorem witness_OrdinaryMemoryUntouched :
    ∃ t, exec .busReset running = .next t ∧ 0x3FF < running.straps.poolBase ∧ ¬ running.inControlBlock 0x3FF :=
  ⟨_, rfl, by decide +kernel⟩

end Sys2Proof.Tests
end

