-- ==== Sys2Proof/Proofs/AddressMap.lean ====
section
/-! SUPPORT. The address map: the class of each range of word addresses, and that no command but a power-on reset latches
other straps. -/

namespace Sys2Proof.Machine

/-! ### The class of each range (R6) -/

namespace Straps

variable {p : Straps} {w : Nat}

theorem classify_of_apertureBase_le (h : Config.apertureBase ≤ w) : p.classify w = .aperture := if_pos h

theorem classify_of_poolBase_le (ha : w < Config.apertureBase) (h : p.poolBase ≤ w) : p.classify w = .unpopulated :=
  (if_neg (Nat.not_le.mpr ha)).trans (if_pos h)

/-- Below the pool the 512 bytes from the base are the Control Block, and the rest is ordinary. -/
theorem classify_below_pool (ha : w < Config.apertureBase) (h : w < p.poolBase) :
    p.classify w = if p.cbBase ≤ w ∧ w ≤ p.cbBase + 511 then .controlBlock else .ordinary := by
  have hlast : w < p.cbBase + 512 ↔ w ≤ p.cbBase + 511 := Nat.lt_succ_iff
  unfold Straps.classify
  rw [if_neg (Nat.not_le.mpr ha), if_neg (Nat.not_le.mpr h)]
  simp only [hlast]

end Straps

/-! ### What latches the straps (R154) -/

theorem onByte_straps {f : Byte → State → State} (hf : ∀ v u, (f v u).straps = u.straps) (b : Option Byte) (s : State) :
    (onByte b f s).straps = s.straps := by
  cases b with
  | none => rfl
  | some v => exact hf v s

@[simp] theorem State.landByte_straps (s : State) (o : Nat) (b : Byte) : (s.landByte o b).straps = s.straps := rfl

@[simp] theorem State.landed_straps (s : State) (o : Nat) (l : Lanes) : (s.landed o l).straps = s.straps :=
  (onByte_straps (fun b u => u.landByte_straps (o + 1) b) l.hi _).trans
    (onByte_straps (fun b u => u.landByte_straps o b) l.lo s)

@[simp] theorem State.endWriting_straps (s : State) (n : Nat) : (s.endWriting n).straps = s.straps := by
  rw [State.endWriting_eq]

/-- Every way in which a command changes the state, but a power-on reset, leaves the straps as latched. -/
theorem Effect.straps {i : Instr} {s t : State} (h : Effect i s t)
    (hi : ∀ lines doors pins, i ≠ .powerOnReset lines doors pins) : t.straps = s.straps := by
  cases h with
  | same h => rw [h]
  | answer a h => rw [h, State.answered_straps]
  | held r hp h => rw [h, State.answered_straps, State.setWaiter_straps]
  | dram a l hc hs h => rw [h]; rfl
  | event u hk h => rw [h, State.finish_straps, hk.straps]
  | host o l u ho hw hk h => rw [h, State.finish_straps, State.landed_straps, hk.straps]
  | powerOn lines doors pins he h => exact absurd he (hi lines doors pins)
  | writing n hp h => rw [h, State.finish_straps, State.endWriting_straps]; rfl
  | reset u hp hk h => rw [h, State.finish_straps, hk.straps]; rfl

theorem exec_straps {c : Instr} {s t : State} (h : exec c s = .next t)
    (hc : ∀ lines doors pins, c ≠ .powerOnReset lines doors pins) : t.straps = s.straps := by
  obtain ⟨u, hu, he⟩ := exec_effect c s
  cases h.symm.trans hu
  exact he.straps hc

/-- Settles O10: the branches of the class give the first part, the ways in which a command changes the state the second. -/
theorem cyclesClassifiedByAddress : Obligations.CyclesClassifiedByAddress := by
  refine ⟨fun p w => ⟨Straps.classify_of_apertureBase_le, Straps.classify_of_poolBase_le, fun ha hp hb => ?_,
    fun ha hp hb => ?_⟩, fun _ _ _ => exec_straps⟩
  · rw [Straps.classify_below_pool ha hp, if_pos hb]
  · rw [Straps.classify_below_pool ha hp, if_neg hb]

end Sys2Proof.Machine
end

