-- ==== Sys2Proof/Proofs/WindowTranslation.lean ====
section
/-! SUPPORT. Window Translation's arithmetic: the sizes, the place of a volume offset, the sector IDs of a cylinder, and the
clamp of interleave and skew that a mount applies. -/

namespace Sys2Proof.Machine

/-! ### Sizes (R16) -/

theorem sectorSize_pos (c : Fin 4) : 0 < sectorSize c := Nat.mul_pos (by decide) (Nat.pow_pos (by decide))

theorem two_dvd_sectorSize (c : Fin 4) : 2 ∣ sectorSize c := Dvd.dvd.mul_right (by decide) _

theorem two_le_sectorsPerTrack : ∀ c, 2 ≤ sectorsPerTrack c := by decide

theorem sectorsPerTrack_pos (c : Fin 4) : 0 < sectorsPerTrack c := Nat.zero_lt_of_lt (two_le_sectorsPerTrack c)

theorem trackSize_pos (c : Fin 4) : 0 < trackSize c := Nat.mul_pos (sectorsPerTrack_pos c) (sectorSize_pos c)

theorem sectorSize_dvd_trackSize (c : Fin 4) : sectorSize c ∣ trackSize c := Nat.dvd_mul_left _ _

theorem trackSize_le : ∀ c, trackSize c ≤ 8192 := by decide

theorem sizes_of_code : ∀ c : Fin 4, (sectorSize c, sectorsPerTrack c, trackSize c) = (match c with
      | 0 => (128, 26, 3328)
      | 1 => (256, 26, 6656)
      | 2 => (512, 15, 7680)
      | 3 => (1024, 8, 8192)) ∧
    (recordedMfm c = false ↔ c = 0) ∧ trackSize c ≤ Config.slotSize := by decide

/-! ### Quotient and remainder by an even divisor, and of the last value below a multiple -/

theorem succ_div_mod_of_even {a n : Nat} (ha : a % 2 = 0) (hn : 2 ∣ n) (hpos : 0 < n) :
    a % n + 1 < n ∧ (a + 1) / n = a / n ∧ (a + 1) % n = a % n + 1 := by
  have heven : a % n % 2 = 0 := (Nat.mod_mod_of_dvd a hn).trans ha
  have hlt : a % n < n := Nat.mod_lt a hpos
  have hnext : a % n + 1 < n := by omega
  have hone : 1 % n = 1 := Nat.mod_eq_of_lt (by omega)
  have hsum : a % n + 1 % n < n := by rwa [hone]
  refine ⟨hnext, ?_, ?_⟩
  · rw [Nat.add_div_eq_of_add_mod_lt hsum, Nat.div_eq_of_lt (by omega : 1 < n), Nat.add_zero]
  · rw [Nat.add_mod_of_add_mod_lt hsum, hone]

theorem mul_pred_div_mod {n p : Nat} (h : 0 < n * p) : (n * p - 1) / n = p - 1 ∧ (n * p - 1) % n = n - 1 := by
  have hdiv := Nat.mul_sub_div 0 n p h
  have hmod := Nat.mul_sub_mod h
  simp only [Nat.zero_div, Nat.zero_mod, Nat.zero_add] at hdiv hmod
  exact ⟨hdiv, hmod⟩

/-! ### The place of a volume offset (R19, R20) -/

namespace Geometry

variable {g : Geometry} {v : Nat}

theorem volumeSize_le (h : g.heads ≤ 2) : g.volumeSize ≤ 1261568 :=
  Nat.mul_le_mul (Nat.mul_le_mul_left 77 h) (trackSize_le g.size)

theorem place_cylinder_le (hv : v < g.volumeSize) : (g.place v).cylinder ≤ 76 := by
  have ht : v / trackSize g.size < g.heads * 77 :=
    Nat.div_lt_of_lt_mul (by rwa [volumeSize, Nat.mul_comm, Nat.mul_comm Config.cylinders] at hv)
  exact Nat.le_of_lt_succ (Nat.div_lt_of_lt_mul ht)

theorem place_offset_lt (g : Geometry) (v : Nat) : (g.place v).offset < trackSize g.size := Nat.mod_lt _ (trackSize_pos _)

theorem place_sector_lt (g : Geometry) (v : Nat) : (g.place v).sector < sectorsPerTrack g.size :=
  Nat.div_lt_of_lt_mul (by rw [Nat.mul_comm]; exact g.place_offset_lt v)

/-- The two bytes of the word at an even offset lie side by side in one sector (R20). -/
theorem place_of_even (hv : v % 2 = 0) :
    (g.place v).offset % sectorSize g.size ≤ sectorSize g.size - 2 ∧ (g.place v).offset % 2 = 0 ∧
      g.place (v + 1) = { g.place v with offset := (g.place v).offset + 1 } := by
  have htrack : 2 ∣ trackSize g.size := (two_dvd_sectorSize _).trans (sectorSize_dvd_trackSize _)
  have hoff : v % trackSize g.size % 2 = 0 := (Nat.mod_mod_of_dvd v htrack).trans hv
  obtain ⟨-, htdiv, htmod⟩ := succ_div_mod_of_even hv htrack (trackSize_pos _)
  obtain ⟨hfits, hsdiv, -⟩ := succ_div_mod_of_even hoff (two_dvd_sectorSize g.size) (sectorSize_pos _)
  refine ⟨Nat.le_sub_of_add_le hfits, hoff, ?_⟩
  simp only [place, htdiv, htmod, hsdiv]

/-- The last byte of a volume: every digit of its offset is the highest (R19). -/
theorem place_last (h : 0 < g.heads) :
    (g.place (g.volumeSize - 1)).cylinder = 76 ∧ (g.place (g.volumeSize - 1)).head = g.heads - 1 ∧
      (g.place (g.volumeSize - 1)).sector = sectorsPerTrack g.size - 1 ∧
      (g.place (g.volumeSize - 1)).offset % sectorSize g.size = sectorSize g.size - 1 := by
  have hvol : g.volumeSize = trackSize g.size * (g.heads * 77) := by
    rw [volumeSize, Nat.mul_comm, Nat.mul_comm Config.cylinders]; rfl
  have hsec : trackSize g.size = sectorSize g.size * sectorsPerTrack g.size := Nat.mul_comm _ _
  have htracks : 0 < g.heads * 77 := Nat.mul_pos h (by decide)
  obtain ⟨hvdiv, hvmod⟩ := mul_pred_div_mod (Nat.mul_pos (trackSize_pos g.size) htracks)
  obtain ⟨htdiv, htmod⟩ := mul_pred_div_mod htracks
  obtain ⟨hwdiv, hwmod⟩ := mul_pred_div_mod (hsec ▸ trackSize_pos g.size)
  rw [← hsec] at hwdiv hwmod
  simp only [place, hvol, hvdiv, hvmod]
  exact ⟨htdiv, htmod, hwdiv, hwmod⟩

end Geometry

/-- Settles O52: each part of the decomposition is a quotient or a remainder, and the sizes it divides by are even. -/
theorem offsetDecomposes : Obligations.OffsetDecomposes := by
  refine ⟨sizes_of_code, fun g v hheads => ?_⟩
  have hpos : 0 < g.heads := by omega
  have hle := Geometry.volumeSize_le (g := g) (by omega)
  refine ⟨rfl, hle, Nat.lt_of_le_of_lt hle (by decide), fun hv => ?_, Geometry.place_last hpos⟩
  refine ⟨rfl, Geometry.place_cylinder_le hv, rfl, Nat.mod_lt _ hpos, rfl, g.place_offset_lt v, rfl, g.place_sector_lt v,
    fun hone => ⟨?_, ?_⟩, Geometry.place_of_even⟩
  · rw [Geometry.place, hone, Nat.mod_one]
  · rw [Geometry.place, hone, Nat.div_one]

/-! ### The sector IDs of a cylinder (R21, R22) -/

theorem positionOf_getElem {ids : List Nat} (hd : ids.Nodup) {p : Nat} (hp : p < ids.length) :
    positionOf ids ids[p] = some p := by
  refine List.findIdx?_eq_some_iff_getElem.mpr ⟨hp, beq_self_eq_true _, fun j hj heq => ?_⟩
  exact hj.ne (hd.getElem_inj_iff.mp (beq_iff_eq.mp heq))

theorem positionOf_of_not_mem {ids : List Nat} {x : Nat} (hx : x ∉ ids) : positionOf ids x = none :=
  List.findIdx?_eq_none_iff.mpr fun _ hy => beq_false_of_ne fun heq => hx (heq ▸ hy)

namespace Geometry

variable {g : Geometry} {c : Nat}

@[simp] theorem length_idList (g : Geometry) (c : Nat) : (g.idList c).length = sectorsPerTrack g.size := by simp [idList]

@[simp] theorem getElem_idList (g : Geometry) (c p : Nat) (h : p < (g.idList c).length) : (g.idList c)[p] = g.sectorId c p := by
  simp [idList]

/-- An interleave that shares no factor with N gives different positions different IDs. -/
theorem sectorId_injOn (hg : Nat.gcd g.interleave (sectorsPerTrack g.size) = 1) {p q : Nat} (hp : p < sectorsPerTrack g.size)
    (hq : q < sectorsPerTrack g.size) (h : g.sectorId c p = g.sectorId c q) : p = q := by
  have hsum : p * g.interleave + c * g.skew ≡ q * g.interleave + c * g.skew [MOD sectorsPerTrack g.size] :=
    Nat.succ_injective h
  have hprod := Nat.ModEq.add_right_cancel' _ hsum
  exact (Nat.ModEq.cancel_right_of_coprime (Nat.gcd_comm .. ▸ hg) hprod).eq_of_lt_of_lt hp hq

theorem idList_nodup (hg : Nat.gcd g.interleave (sectorsPerTrack g.size) = 1) : (g.idList c).Nodup :=
  List.nodup_range.map_on fun _ hp _ hq => sectorId_injOn hg (List.mem_range.mp hp) (List.mem_range.mp hq)

theorem idList_subset : g.idList c ⊆ List.range' 1 (sectorsPerTrack g.size) := by
  intro x hx
  obtain ⟨p, -, rfl⟩ := List.mem_map.mp hx
  have hlt := Nat.mod_lt (p * g.interleave + c * g.skew) (sectorsPerTrack_pos g.size)
  refine List.mem_range'_1.mpr ⟨Nat.le_add_left _ _, ?_⟩
  unfold sectorId; omega

/-- N different IDs among 1 to N are all of them. -/
theorem mem_idList_iff (hg : Nat.gcd g.interleave (sectorsPerTrack g.size) = 1) {x : Nat} :
    x ∈ g.idList c ↔ 1 ≤ x ∧ x ≤ sectorsPerTrack g.size := by
  have hperm : (g.idList c).Perm (List.range' 1 (sectorsPerTrack g.size)) :=
    (List.subperm_of_subset (idList_nodup hg) idList_subset).perm_of_length_le (by simp)
  rw [hperm.mem_iff, List.mem_range'_1]
  omega

theorem positionOf_sectorId (hg : Nat.gcd g.interleave (sectorsPerTrack g.size) = 1) {p : Nat}
    (hp : p < sectorsPerTrack g.size) : positionOf (g.idList c) (g.sectorId c p) = some p := by
  have hlen : p < (g.idList c).length := by rwa [length_idList]
  rw [← getElem_idList g c p hlen]
  exact positionOf_getElem (idList_nodup hg) hlen

theorem sectorId_label (g : Geometry) : g.sectorId 0 0 = 1 := by simp [sectorId]

end Geometry

/-- Settles O53: the IDs of a cylinder are different, so N of them among 1 to N are the whole range. -/
theorem sectorIdsCoverTrack : Obligations.SectorIdsCoverTrack := by
  rintro g _ rfl hg
  refine ⟨fun _ _ => rfl, fun c => ⟨g.length_idList c, Geometry.idList_nodup hg, fun _ => Geometry.mem_idList_iff hg,
    fun _ => Geometry.positionOf_sectorId hg, fun x hx => ?_⟩, fun _ => ⟨rfl, fun _ => rfl⟩, g.sectorId_label⟩
  exact positionOf_of_not_mem (mt (Geometry.mem_idList_iff hg).mp hx)

/-! ### The effective interleave and skew (R23) -/

section
variable {c : Fin 4} {host : Nat}

theorem effectiveInterleave_kept (h : Nat.gcd (host % sectorsPerTrack c) (sectorsPerTrack c) = 1) :
    effectiveInterleave c host = host % sectorsPerTrack c := by
  have hne : host % sectorsPerTrack c ≠ 0 := fun hz => by
    rw [hz, Nat.gcd_zero_left] at h
    exact absurd h (Nat.ne_of_gt (two_le_sectorsPerTrack c))
  simp only [effectiveInterleave, if_neg hne, if_pos h]

theorem effectiveInterleave_clamped
    (h : host % sectorsPerTrack c = 0 ∨ Nat.gcd (host % sectorsPerTrack c) (sectorsPerTrack c) ≠ 1) :
    effectiveInterleave c host = 1 := by
  rcases h with h | h
  · simp only [effectiveInterleave, if_pos h]
  · simp only [effectiveInterleave, if_neg h, ite_self]

theorem gcd_effectiveInterleave (c : Fin 4) (host : Nat) : Nat.gcd (effectiveInterleave c host) (sectorsPerTrack c) = 1 := by
  by_cases h : Nat.gcd (host % sectorsPerTrack c) (sectorsPerTrack c) = 1
  · rwa [effectiveInterleave_kept h]
  · rw [effectiveInterleave_clamped (.inr h), Nat.gcd_one_left]

/-- The remainder is kept exactly when it shares no factor with N; the clamped value 1 shares none. -/
theorem effectiveInterleave_eq_iff :
    effectiveInterleave c host = host % sectorsPerTrack c ↔ Nat.gcd (host % sectorsPerTrack c) (sectorsPerTrack c) = 1 :=
  ⟨fun h => h ▸ gcd_effectiveInterleave c host, effectiveInterleave_kept⟩

theorem effectiveInterleave_lt (c : Fin 4) (host : Nat) : effectiveInterleave c host < sectorsPerTrack c := by
  by_cases h : Nat.gcd (host % sectorsPerTrack c) (sectorsPerTrack c) = 1
  · rw [effectiveInterleave_kept h]; exact Nat.mod_lt _ (sectorsPerTrack_pos c)
  · rw [effectiveInterleave_clamped (.inr h)]; exact two_le_sectorsPerTrack c

theorem effectiveInterleave_pos (c : Fin 4) (host : Nat) : 0 < effectiveInterleave c host := by
  refine Nat.pos_of_ne_zero fun hz => ?_
  have hg := gcd_effectiveInterleave c host
  rw [hz, Nat.gcd_zero_left] at hg
  exact absurd hg (Nat.ne_of_gt (two_le_sectorsPerTrack c))

theorem effectiveInterleave_one (c : Fin 4) : effectiveInterleave c 1 = 1 := by
  have hmod : 1 % sectorsPerTrack c = 1 := Nat.mod_eq_of_lt (two_le_sectorsPerTrack c)
  rw [effectiveInterleave_kept (by rw [hmod, Nat.gcd_one_left]), hmod]

end

/-! The remainders that each N keeps. -/

theorem gcd_26_eq_one_iff : ∀ i < 26, Nat.gcd i 26 = 1 ↔ i % 2 = 1 ∧ i ≠ 13 := by decide

theorem gcd_15_eq_one_iff : ∀ i < 15, Nat.gcd i 15 = 1 ↔ i % 3 ≠ 0 ∧ i % 5 ≠ 0 := by decide

theorem gcd_8_eq_one_iff : ∀ i < 8, Nat.gcd i 8 = 1 ↔ i % 2 = 1 := by decide

/-! ### What the mount's end serves and reports (R23, R24) -/

theorem State.mountEnd_found (s : State) (d : DriveNo) (size : Fin 4) (stamp : Option Word) :
    s.mountEnd d (.found size stamp) =
      { s.updRecord d (fun m => m.mounted (s.records[d].latched.geometry size) stamp) with
        geometry := upd s.geometry d (fun _ => some (s.records[d].latched.geometry size)) } := rfl

theorem State.mountEnd_found_serves (s : State) (d : DriveNo) (size : Fin 4) (stamp : Option Word) :
    (s.mountEnd d (.found size stamp)).records[d] = s.records[d].mounted (s.records[d].latched.geometry size) stamp ∧
      (s.mountEnd d (.found size stamp)).geometry[d] = some (s.records[d].latched.geometry size) := by
  rw [State.mountEnd_found]
  exact ⟨upd_get_same .., upd_get_same ..⟩

/-- Settles O54: a remainder is kept exactly when it shares no factor with N, and the mount's end stores what the clamp gives. -/
theorem interleaveClamp : Obligations.InterleaveClamp := by
  rintro l size _ _ rfl rfl
  have hlt : l.interleave.toNat % sectorsPerTrack size < sectorsPerTrack size := Nat.mod_lt _ (sectorsPerTrack_pos size)
  refine ⟨effectiveInterleave_clamped, fun _ => effectiveInterleave_kept, rfl, effectiveInterleave_pos .., ?_,
    gcd_effectiveInterleave .., ?_, fun hone => ?_, fun hzero => ?_, ?_, ?_, ?_, ?_⟩
  · exact Nat.le_sub_one_of_lt (effectiveInterleave_lt ..)
  · exact Nat.le_sub_one_of_lt (Nat.mod_lt _ (sectorsPerTrack_pos size))
  · simp only [Latched.geometry, hone]; exact effectiveInterleave_one size
  · simp only [Latched.geometry, hzero]; exact Nat.zero_mod _
  · rintro (rfl | rfl) <;> exact effectiveInterleave_eq_iff.trans (gcd_26_eq_one_iff _ hlt)
  · rintro rfl; exact effectiveInterleave_eq_iff.trans (gcd_15_eq_one_iff _ hlt)
  · rintro rfl; exact effectiveInterleave_eq_iff.trans (gcd_8_eq_one_iff _ hlt)
  · rintro s d stamp rfl
    obtain ⟨hrecord, hgeometry⟩ := s.mountEnd_found_serves d size stamp
    exact ⟨congrArg MountRecord.state hrecord, hgeometry, congrArg MountRecord.effInterleave hrecord,
      congrArg MountRecord.effSkew hrecord⟩

end Sys2Proof.Machine
end

section
/-! SUPPORT. Sound queues and a sound slot table: what each update of a queue, of a slot and of the two lists does to them. -/

namespace Sys2Proof.Machine

/-! ### Slots after an update -/

theorem State.slot_of_length_le {s : State} {k : Nat} (h : s.slots.length ≤ k) : s.slot k = Slot.blank :=
  List.getD_eq_default _ _ h

theorem State.slot_eq_getElem {s : State} {k : Nat} (h : k < s.slots.length) : s.slot k = s.slots[k] :=
  List.getD_eq_getElem _ _ h

/-- A slot that is not FREE is one of the table. -/
theorem State.lt_of_not_free {s : State} {k : Nat} (h : (s.slot k).state ≠ .free) : k < s.slots.length := by
  by_contra hk
  rw [State.slot_of_length_le (Nat.le_of_not_lt hk)] at h
  exact h rfl

/-- A slot entry of the table after one entry of it has changed. -/
theorem slot_modify (l : List Slot) (k j : Nat) (f : Slot → Slot) :
    (l.modify k f).getD j Slot.blank = if k = j ∧ j < l.length then f (l.getD j Slot.blank) else l.getD j Slot.blank := by
  simp only [List.getD_eq_getElem?_getD, List.getElem?_modify]
  by_cases hj : j < l.length
  · by_cases hk : k = j <;> simp [hj, hk]
  · simp [hj]

theorem State.slot_updSlot (s : State) (k j : Nat) (f : Slot → Slot) :
    (s.updSlot k f).slot j = if k = j ∧ j < s.slots.length then f (s.slot j) else s.slot j := slot_modify ..

theorem State.slot_updSlot_same {s : State} {k : Nat} {f : Slot → Slot} (h : k < s.slots.length) :
    (s.updSlot k f).slot k = f (s.slot k) := by
  rw [State.slot_updSlot, if_pos ⟨rfl, h⟩]

theorem State.slot_updSlot_ne {s : State} {k j : Nat} {f : Slot → Slot} (h : k ≠ j) :
    (s.updSlot k f).slot j = s.slot j := by
  rw [State.slot_updSlot, if_neg fun g => h g.1]

/-- What an update of a slot keeps of every entry that satisfies a condition, it keeps of each entry of the table. -/
theorem State.slot_updSlot_of {s : State} {k : Nat} {f : Slot → Slot} {P : Slot → Slot → Prop} (j : Nat)
    (hr : P (s.slot j) (s.slot j)) (hf : j = k → j < s.slots.length → P (s.slot j) (f (s.slot j))) :
    P (s.slot j) ((s.updSlot k f).slot j) := by
  rw [State.slot_updSlot]
  split
  · rename_i h; exact hf h.1.symm h.2
  · exact hr

theorem State.slots_freeSlot (s : State) (k : Nat) : (s.freeSlot k).slots = s.slots.modify k (fun t =>
    { t with
      state := .free
      key := none
      sectors := []
      dirtySince := none
      writeFailed := false
      yields := 0
      active := none
      pendingWrite := none }) := rfl

theorem State.slot_freeSlot_ne {s : State} {k j : Nat} (h : k ≠ j) : (s.freeSlot k).slot j = s.slot j :=
  State.slot_updSlot_ne h

theorem State.mem_slotsWhere {s : State} {q : Nat → Slot → Bool} {k : Nat} :
    k ∈ s.slotsWhere q ↔ k < s.slots.length ∧ q k (s.slot k) = true := by
  unfold State.slotsWhere
  rw [List.mem_filter, List.mem_range]

theorem State.slotsWhere_nodup (s : State) (q : Nat → Slot → Bool) : (s.slotsWhere q).Nodup :=
  List.nodup_range.filter _

/-- A slot found by its key. -/
theorem State.lookup_some {s : State} {key : Key} {k : Nat} (h : s.lookup key = some k) :
    k < s.slots.length ∧ (s.slot k).state ≠ .free ∧ (s.slot k).key = some key := by
  obtain ⟨hk, hq, -⟩ := List.findIdx?_eq_some_iff_getElem.mp h
  rw [State.slot_eq_getElem hk]
  exact ⟨hk, by simpa using hq⟩

theorem State.lookup_none {s : State} {key : Key} (h : s.lookup key = none) {k : Nat} (hk : k < s.slots.length)
    (hs : (s.slot k).state ≠ .free) : (s.slot k).key ≠ some key := by
  rw [State.slot_eq_getElem hk] at hs ⊢
  have := List.findIdx?_eq_none_iff.mp h _ (List.getElem_mem hk)
  simpa [hs] using this

/-! ### Queues -/

/-- The operations of a queue that hold the channel. -/
def transferring (q : List Op) : List Op := q.filter (fun o => decide (o.phase = .transferring))

/-- The operations of a queue that are current. -/
def currents (q : List Op) : List Op := q.filter Op.isCurrent

/-- What each operation of a queue is for. -/
def works (q : List Op) : List (Option Nat) := q.map (fun o => o.work.slot?)

theorem State.transfers_length (s : State) : s.transfers.length = ∑ d : DriveNo, (transferring s.drives[d].queue).length := by
  have hl : s.drives.toList = [s.drives[(0 : DriveNo)], s.drives[(1 : DriveNo)], s.drives[(2 : DriveNo)], s.drives[(3 : DriveNo)]] := by
    apply List.ext_getElem
    · simp
    · intro i h1 h2
      rw [Vector.getElem_toList]
      simp only [List.length_cons, List.length_nil] at h2
      interval_cases i <;> rfl
  unfold State.transfers transferring
  rw [hl, Fin.sum_univ_four]
  simp only [List.flatMap_cons, List.flatMap_nil, List.length_append, List.length_nil]
  omega

theorem State.queuesSound_iff (s : State) : s.QueuesSound ↔
    (∀ d : DriveNo, (currents s.drives[d].queue).length ≤ 1 ∧ (works s.drives[d].queue).Nodup) ∧
      ∑ d : DriveNo, (transferring s.drives[d].queue).length ≤ 1 := by
  rw [← State.transfers_length]; rfl

/-- A queue that has lost operations, or whose operations have gone back to QUEUED or on from SEEKING. -/
structure Tamer (q p : List Op) : Prop where
  current : (currents p).length ≤ (currents q).length
  works : (works p).Sublist (works q)
  transferring : (transferring p).length ≤ (transferring q).length

theorem Tamer.refl (q : List Op) : Tamer q q := ⟨le_refl _, List.Sublist.refl _, le_refl _⟩

/-- Part of a queue. -/
theorem Tamer.of_sublist {q p : List Op} (h : p.Sublist q) : Tamer q p :=
  ⟨(h.filter _).length_le, h.map _, (h.filter _).length_le⟩

/-- The counts of a mapped list are not above those of the list where the condition holds of no more of it. -/
theorem length_filter_map_le {α : Type} {f : α → α} {b : α → Bool} (h : ∀ x, b (f x) = true → b x = true) (q : List α) :
    ((q.map f).filter b).length ≤ (q.filter b).length := by
  rw [List.filter_map, List.length_map]
  exact (List.monotone_filter_right q fun x hx => h x hx).length_le

/-- A queue whose operations have changed, none of them to a phase further on than before in holding the head or the channel. -/
theorem Tamer.of_map {f : Op → Op} (hw : ∀ o, (f o).work.slot? = o.work.slot?)
    (hc : ∀ o, (f o).phase ≠ .queued → o.phase ≠ .queued) (ht : ∀ o, (f o).phase = .transferring → o.phase = .transferring)
    (q : List Op) : Tamer q (q.map f) where
  current := length_filter_map_le (fun o h => by simpa [Op.isCurrent] using hc o (by simpa [Op.isCurrent] using h)) q
  works := by
    unfold Machine.works
    rw [List.map_map, show (fun o => o.work.slot?) ∘ f = fun o => o.work.slot? from funext hw]
  transferring := length_filter_map_le (fun o h => by simpa using ht o (by simpa using h)) q

/-- Queues that have become tamer are sound. -/
theorem State.QueuesSound.tamer {s t : State} (h : s.QueuesSound) (ht : ∀ d : DriveNo, Tamer s.drives[d].queue t.drives[d].queue) :
    t.QueuesSound := by
  rw [State.queuesSound_iff] at h ⊢
  obtain ⟨hd, hs⟩ := h
  exact ⟨fun d => ⟨(ht d).current.trans (hd d).1, (hd d).2.sublist (ht d).works⟩,
    (Finset.sum_le_sum fun d _ => (ht d).transferring).trans hs⟩

/-- One queue changed. -/
theorem State.QueuesSound.updDrive {s : State} (h : s.QueuesSound) (d : DriveNo) {f : Drive → Drive}
    (hc : (currents (f s.drives[d]).queue).length ≤ 1) (hw : (works (f s.drives[d]).queue).Nodup)
    (ht : (transferring (f s.drives[d]).queue).length ≤ (transferring s.drives[d].queue).length) :
    (s.updDrive d f).QueuesSound := by
  rw [State.queuesSound_iff] at h ⊢
  obtain ⟨hd, hs⟩ := h
  refine ⟨fun e => ?_, (Finset.sum_le_sum fun e _ => ?_).trans hs⟩
  all_goals
    rw [State.updDrive_drives, upd_get]
    split
    · rename_i he; subst he; first | exact ⟨hc, hw⟩ | exact ht
    · first | exact hd e | exact le_refl _

/-- A drive has at most one operation of a slot. -/
theorem eq_of_slot {q : List Op} (h : (works q).Nodup) {a b : Op} (ha : a ∈ q) (hb : b ∈ q)
    (hab : a.work.slot? = b.work.slot?) : a = b := List.inj_on_of_nodup_map h ha hb hab

/-- Of a queue without a double entry at most one operation is for a slot. -/
theorem length_filter_slot_le {q : List Op} (h : (works q).Nodup) (k : Option Nat) :
    (q.filter (fun o => decide (o.work.slot? = k))).length ≤ 1 := by
  have hc : (works q).count k ≤ 1 := List.nodup_iff_count_le_one.mp h k
  unfold works at hc
  rw [List.count, List.countP_map, List.countP_eq_length_filter, show (fun x => x == k) ∘ (fun o : Op => o.work.slot?) =
    fun o => decide (o.work.slot? = k) from funext fun o => Bool.eq_iff_iff.mpr (by simp)] at hc
  exact hc

theorem Drive.currentOp_mem {v : Drive} {o : Op} (h : v.currentOp = some o) : o ∈ v.queue ∧ o.phase ≠ .queued :=
  ⟨List.mem_of_find?_eq_some h, by simpa [Op.isCurrent] using List.find?_some h⟩

theorem Drive.currentOp_none {v : Drive} (h : v.currentOp = none) {o : Op} (ho : o ∈ v.queue) : o.phase = .queued := by
  simpa [Op.isCurrent] using List.find?_eq_none.mp h o ho

/-! ### What an operation of the model does to both -/

/-- The queues and the slot table are sound after a piece of work, each where it was sound before. -/
structure Sound (s t : State) : Prop where
  queues : s.QueuesSound → t.QueuesSound
  directory : s.DirectorySound → t.DirectorySound

namespace Sound

variable {s t u : State}

theorem refl (s : State) : Sound s s := ⟨id, id⟩

theorem trans (h : Sound s t) (g : Sound t u) : Sound s u := ⟨g.queues ∘ h.queues, g.directory ∘ h.directory⟩

theorem ite {c : Prop} [Decidable c] (h : c → Sound s t) (g : ¬ c → Sound s u) : Sound s (if c then t else u) := by
  split
  · rename_i hc; exact h hc
  · rename_i hc; exact g hc

theorem foldl {α : Type} {f : State → α → State} (hf : ∀ t x, Sound t (f t x)) (xs : List α) (h : Sound s t) :
    Sound s (xs.foldl f t) := by
  induction xs generalizing t with
  | nil => exact h
  | cons x xs ih => exact ih (h.trans (hf t x))

/-- A change of fields other than the queues, the slots and their lists. -/
theorem fields (h : Sound s t) (hd : u.drives = t.drives) (hs : u.slots = t.slots) (hf : u.freeList = t.freeList)
    (hr : u.recency = t.recency) : Sound s u where
  queues := fun g => (h.queues g).tamer fun d => by rw [hd]; exact .refl _
  directory := fun g => by
    have hslot : ∀ k, u.slot k = t.slot k := fun k => by unfold State.slot; rw [hs]
    obtain ⟨h1, h2, h3, h4, h5, h6, h7⟩ := h.directory g
    constructor <;> simp only [hslot, hs, hf, hr] <;> assumption

/-- A change of drives that makes no queue wilder. -/
theorem tamer (h : Sound s t) {v : Vector Drive 4} (hv : ∀ d : DriveNo, Tamer t.drives[d].queue v[d].queue) :
    Sound s { t with drives := v } where
  queues := fun g => (h.queues g).tamer hv
  directory := fun g => by
    obtain ⟨h1, h2, h3, h4, h5, h6, h7⟩ := h.directory g
    exact ⟨h1, h2, h3, h4, h5, h6, h7⟩

theorem updDrive (h : Sound s t) (d : DriveNo) {f : Drive → Drive} (hf : ∀ v, Tamer v.queue (f v).queue) :
    Sound s (t.updDrive d f) :=
  h.tamer fun e => by
    rw [upd_get]; split
    · rename_i he; subst he; exact hf _
    · exact .refl _

/-- A change of a drive that leaves its queue. -/
theorem drive (h : Sound s t) (d : DriveNo) {f : Drive → Drive} (hf : ∀ v, (f v).queue = v.queue) :
    Sound s (t.updDrive d f) := h.updDrive d fun v => by rw [hf]; exact .refl _

/-- A change of one queue alone. -/
theorem queue (h : Sound s t) (d : DriveNo) {f : Drive → Drive}
    (hc : s.QueuesSound → (currents (f t.drives[d]).queue).length ≤ 1 ∧ (works (f t.drives[d]).queue).Nodup ∧
      (transferring (f t.drives[d]).queue).length ≤ (transferring t.drives[d].queue).length) : Sound s (t.updDrive d f) where
  queues := fun g => by
    obtain ⟨h1, h2, h3⟩ := hc g
    exact (h.queues g).updDrive d h1 h2 h3
  directory := fun g => by
    obtain ⟨h1, h2, h3, h4, h5, h6, h7⟩ := h.directory g
    exact ⟨h1, h2, h3, h4, h5, h6, h7⟩

/-- A change of slots that leaves which of them are FREE and the keys, and leaves an active sector to WRITING slots alone. -/
theorem slots (h : Sound s t) {l : List Slot} (hl : l.length = t.slots.length)
    (hk : s.DirectorySound → ∀ k, ((l.getD k Slot.blank).state = .free ↔ (t.slot k).state = .free) ∧
      (l.getD k Slot.blank).key = (t.slot k).key ∧
      ((l.getD k Slot.blank).active ≠ none → (l.getD k Slot.blank).state = .writing)) : Sound s { t with slots := l } where
  queues := fun g => (h.queues g).tamer fun d => .refl _
  directory := fun g => by
    have hk := hk g
    obtain ⟨h1, h2, h3, h4, h5, h6, h7⟩ := h.directory g
    constructor <;> simp only [State.slot, hl, (hk _).1, (hk _).2.1, ne_eq] <;> try assumption
    exact fun k => (hk k).2.2

/-- A change of one slot: it stays FREE or not FREE, keeps its key, and an active sector stays with WRITING. -/
theorem slot (h : Sound s t) (k : Nat) {f : Slot → Slot}
    (hf : s.DirectorySound → k < t.slots.length → ((f (t.slot k)).state = .free ↔ (t.slot k).state = .free) ∧
      (f (t.slot k)).key = (t.slot k).key ∧ ((f (t.slot k)).active ≠ none → (f (t.slot k)).state = .writing)) :
    Sound s (t.updSlot k f) :=
  h.slots (List.length_modify ..) fun g j => State.slot_updSlot_of
    (P := fun x y => (y.state = .free ↔ x.state = .free) ∧ y.key = x.key ∧ (y.active ≠ none → y.state = .writing)) j
    ⟨Iff.rfl, rfl, (h.directory g).active j⟩ fun e hj => by subst e; exact hf g hj

/-- A change of a slot that leaves its state, its key and its active sector. -/
theorem slotSame (h : Sound s t) (k : Nat) {f : Slot → Slot}
    (hf : ∀ x, (f x).state = x.state ∧ (f x).key = x.key ∧ (f x).active = x.active) : Sound s (t.updSlot k f) :=
  h.slot k fun g _ => by
    obtain ⟨h1, h2, h3⟩ := hf (t.slot k)
    rw [h1, h2, h3]
    exact ⟨Iff.rfl, rfl, (h.directory g).active k⟩

/-- A slot of the recency order moved to its front. -/
theorem touch (h : Sound s t) {k : Nat} (hk : (t.slot k).state ≠ .free) : Sound s (t.touch k) where
  queues := fun g => (h.queues g).tamer fun d => .refl _
  directory := fun g => by
    obtain ⟨h1, h2, h3, h4, h5, h6, h7⟩ := h.directory g
    have hmem : k ∈ t.recency := (h4 k).mpr ⟨State.lt_of_not_free hk, hk⟩
    have hp : (k :: t.recency.erase k).Perm t.recency := (List.perm_cons_erase hmem).symm
    exact ⟨h1, h2, hp.nodup_iff.mpr h3, fun j => hp.mem_iff.trans (h4 j), h5, h6, h7⟩

/-- A slot that is not FREE becomes FREE. -/
theorem freeSlot (h : Sound s t) {k : Nat} (hk : s.DirectorySound → (t.slot k).state ≠ .free) : Sound s (t.freeSlot k) where
  queues := fun g => (h.queues g).tamer fun d => .refl _
  directory := fun g => by
    have hd := h.directory g
    have hn := hk g
    have hlt := State.lt_of_not_free hn
    have hlen : (t.freeSlot k).slots.length = t.slots.length := List.length_modify ..
    have hsame : (t.freeSlot k).slot k = _ := State.slot_updSlot_same hlt
    have hother : ∀ j, k ≠ j → (t.freeSlot k).slot j = t.slot j := fun j => State.slot_freeSlot_ne
    refine ⟨?_, fun j => ?_, hd.recencyNodup.erase k, fun j => ?_, fun j hj => ?_, fun i j hi hj hij hne => ?_, fun j hj => ?_⟩
    · refine List.nodup_append.mpr ⟨hd.freeNodup, List.nodup_singleton k, fun a ha b hb => ?_⟩
      rw [List.mem_singleton.mp hb]; rintro rfl
      exact hn ((hd.free a).mp ha).2
    · show j ∈ t.freeList ++ [k] ↔ _
      rw [List.mem_append, List.mem_singleton, hd.free, hlen]
      by_cases e : k = j
      · subst e; simp [hlt, hsame]
      · rw [hother j e]; simp [Ne.symm e]
    · show j ∈ t.recency.erase k ↔ _
      rw [hd.recencyNodup.mem_erase_iff, hd.recency, hlen]
      by_cases e : k = j
      · subst e; simp [hsame]
      · rw [hother j e]; simp [Ne.symm e]
    · rw [hlen] at hj
      by_cases e : k = j
      · subst e; rw [hsame]; simp
      · rw [hother j e]; exact hd.keyed j hj
    · rw [hlen] at hi hj
      have ei : k ≠ i := by rintro rfl; rw [hsame] at hne; exact hne rfl
      have ej : k ≠ j := by rintro rfl; rw [hsame] at hij; exact hne hij
      rw [hother i ei, hother j ej] at hij
      rw [hother i ei] at hne
      exact hd.keysDiffer i j hi hj hij hne
    · by_cases e : k = j
      · subst e; rw [hsame] at hj; exact absurd rfl hj
      · rw [hother j e] at hj ⊢; exact hd.active j hj

/-- Several slots, none of them FREE, become FREE together. -/
theorem freeSlots (h : Sound s t) {ks : List Nat} (hn : ks.Nodup) (hk : s.DirectorySound → ∀ k ∈ ks, (t.slot k).state ≠ .free) :
    Sound s (t.freeSlots ks) := by
  unfold State.freeSlots
  induction ks generalizing t with
  | nil => exact h
  | cons k ks ih =>
    obtain ⟨hnk, hn⟩ := List.nodup_cons.mp hn
    refine ih (h.freeSlot fun g => hk g k List.mem_cons_self) hn fun g j hj => ?_
    rw [State.slot_freeSlot_ne (by rintro rfl; exact hnk hj)]
    exact hk g j (List.mem_cons_of_mem _ hj)

/-- A slot is given to a key that no slot holds, and its FILL is asked for. -/
theorem assigned (h : Sound s t) {k : Nat} {key : Key} {e : Slot} (he : e.state = .filling ∧ e.key = some key ∧ e.active = none)
    (hk : s.DirectorySound → k < t.slots.length) (hl : t.lookup key = none) :
    Sound s { t.updSlot k (fun _ => e) with freeList := t.freeList.erase k, recency := k :: t.recency.erase k } where
  queues := fun g => (h.queues g).tamer fun d => .refl _
  directory := fun g => by
    have hd := h.directory g
    have hlt := hk g
    obtain ⟨hes, hek, hea⟩ := he
    have hlen : (t.updSlot k (fun _ => e)).slots.length = t.slots.length := List.length_modify ..
    have hsame : (t.updSlot k (fun _ => e)).slot k = e := State.slot_updSlot_same hlt
    have hother : ∀ j, k ≠ j → (t.updSlot k (fun _ => e)).slot j = t.slot j := fun j => State.slot_updSlot_ne
    have hkey : ∀ j, j < t.slots.length → (t.slot j).key ≠ some key := fun j hj hjk =>
      State.lookup_none hl hj (fun hf => by rw [(hd.keyed j hj).mpr hf] at hjk; cases hjk) hjk
    constructor
    · exact hd.freeNodup.erase k
    · intro j
      show j ∈ t.freeList.erase k ↔ j < (t.updSlot k (fun _ => e)).slots.length ∧ ((t.updSlot k (fun _ => e)).slot j).state = .free
      rw [hd.freeNodup.mem_erase_iff, hd.free, hlen]
      by_cases hj : k = j
      · subst hj; simp [hsame, hes]
      · rw [hother j hj]; simp [Ne.symm hj]
    · exact List.nodup_cons.mpr ⟨fun hm => (hd.recencyNodup.mem_erase_iff.mp hm).1 rfl, hd.recencyNodup.erase k⟩
    · intro j
      show j ∈ k :: t.recency.erase k ↔ j < (t.updSlot k (fun _ => e)).slots.length ∧ ((t.updSlot k (fun _ => e)).slot j).state ≠ .free
      rw [List.mem_cons, hd.recencyNodup.mem_erase_iff, hd.recency, hlen]
      by_cases hj : k = j
      · subst hj; simp [hsame, hes, hlt]
      · rw [hother j hj]; simp [Ne.symm hj]
    · intro j hj
      show ((t.updSlot k (fun _ => e)).slot j).key = none ↔ ((t.updSlot k (fun _ => e)).slot j).state = .free
      by_cases e' : k = j
      · subst e'; simp [hsame, hek, hes]
      · rw [hother j e']; exact hd.keyed j (hlen ▸ hj)
    · intro i j hi hj
      show ((t.updSlot k (fun _ => e)).slot i).key = ((t.updSlot k (fun _ => e)).slot j).key →
        ((t.updSlot k (fun _ => e)).slot i).key ≠ none → i = j
      replace hi : i < t.slots.length := hlen ▸ hi
      replace hj : j < t.slots.length := hlen ▸ hj
      by_cases ei : k = i <;> by_cases ej : k = j
      · exact fun _ _ => ei.symm.trans ej
      · subst ei; rw [hsame, hother j ej, hek]; exact fun hij => absurd hij.symm (hkey j hj)
      · subst ej; rw [hsame, hother i ei, hek]; exact fun hij => absurd hij (hkey i hi)
      · rw [hother i ei, hother j ej]; exact hd.keysDiffer i j hi hj
    · intro j
      show ((t.updSlot k (fun _ => e)).slot j).active ≠ none → ((t.updSlot k (fun _ => e)).slot j).state = .writing
      by_cases ej : k = j
      · subst ej; rw [hsame, hea]; exact fun hn => absurd rfl hn
      · rw [hother j ej]; exact hd.active j

end Sound

end Sys2Proof.Machine
end

section
/-! SUPPORT. Drive work, its ends and failures, the volumes and the schedule keep the queues and the slot table sound. -/

namespace Sys2Proof.Machine

/-! ### What the lookups of the model find -/

theorem Drive.opOf_none {v : Drive} {k : Option Nat} : v.opOf k = none ↔ ∀ o ∈ v.queue, o.work.slot? ≠ k := by
  unfold Drive.opOf
  rw [List.find?_eq_none]
  simp

@[simp] theorem Work.mark_slot (w : Work) (b : Bool) : (w.mark b).slot? = w.slot? := by cases w <;> rfl

/-- A victim is a slot of the table, FREE or reusable. -/
theorem State.DirectorySound.victim_lt {s : State} (h : s.DirectorySound) {k : Nat} (hk : s.victim = some k) :
    k < s.slots.length := by
  unfold State.victim at hk
  split at hk
  · rename_i j js hf
    cases hk
    exact ((h.free k).mp (by rw [hf]; exact List.mem_cons_self)).1
  · exact ((h.recency k).mp (List.mem_reverse.mp (List.mem_of_find?_eq_some hk))).1

/-- A slot with a key is not FREE. -/
theorem State.DirectorySound.not_free {s : State} (h : s.DirectorySound) {k : Nat} (hk : k < s.slots.length)
    (hn : (s.slot k).key ≠ none) : (s.slot k).state ≠ .free := fun hf => hn ((h.keyed k hk).mpr hf)

/-- The slots of a drive are not FREE. -/
theorem State.DirectorySound.slotsOf_not_free {s : State} (h : s.DirectorySound) {d : DriveNo} {k : Nat}
    (hk : k ∈ s.slotsOf d) : (s.slot k).state ≠ .free := by
  obtain ⟨hlt, ho⟩ := State.mem_slotsWhere.mp hk
  refine h.not_free hlt fun hn => ?_
  unfold Slot.onDrive at ho
  rw [hn] at ho
  cases ho

/-- An active sector belongs to a WRITING slot alone. -/
theorem State.DirectorySound.active_none {s : State} (h : s.DirectorySound) {k : Nat} (hs : (s.slot k).state ≠ .writing) :
    (s.slot k).active = none := by
  by_contra hn
  exact hs (h.active k hn)

theorem State.applies_state {s : State} {k : Nat} {key : Key} {gen : Byte} {st : SlotState}
    (h : s.applies k key gen st = true) : (s.slot k).state = st := by
  unfold State.applies at h
  simp only [Bool.and_eq_true, decide_eq_true_eq] at h
  exact h.1.1.2

theorem Drive.positionedOp_some {v : Drive} {o : Op} {x : Stamp} (h : v.positionedOp = some (o, x)) : v.currentOp = some o := by
  unfold Drive.positionedOp at h
  split at h
  · rename_i p hp
    split at h
    · cases h; exact hp
    · cases h
  · cases h

/-- The choice of the arbiter is a POSITIONED operation of its drive. -/
theorem State.arbiterChoice_some {s : State} {x : DriveNo × Op × Stamp} (h : s.arbiterChoice = some x) :
    s.drives[x.1].positionedOp = some x.2 := by
  have key : ∀ (xs : List (DriveNo × Op × Stamp)) (best : Option (DriveNo × Op × Stamp)),
      (∀ y ∈ xs, s.drives[y.1].positionedOp = some y.2) → (∀ y ∈ best, s.drives[y.1].positionedOp = some y.2) →
      ∀ y ∈ xs.foldl (fun best x => match best with
        | none => some x
        | some b => if arbiterPrefers b x then some b else some x) best, s.drives[y.1].positionedOp = some y.2 := by
    intro xs
    induction xs with
    | nil => exact fun best _ hb => hb
    | cons z zs ih =>
      intro best hx hb
      refine ih _ (fun y hy => hx y (List.mem_cons_of_mem _ hy)) ?_
      have hz := hx z List.mem_cons_self
      dsimp only
      split
      · rintro y ⟨⟩; exact hz
      · split
        · exact hb
        · rintro y ⟨⟩; exact hz
  refine key _ none (fun y hy => ?_) (fun y hy => by cases hy) x h
  obtain ⟨d, -, hd⟩ := List.mem_filterMap.mp hy
  obtain ⟨z, hz, rfl⟩ := Option.map_eq_some_iff.mp hd
  exact hz

theorem State.arbiterChoice_current {s : State} {x : DriveNo × Op × Stamp} (h : s.arbiterChoice = some x) :
    s.drives[x.1].currentOp = some x.2.1 := Drive.positionedOp_some (State.arbiterChoice_some h)

/-- No operation of any drive holds the channel. -/
def State.ChannelFree (s : State) : Prop := ∀ (d : DriveNo) (o : Op), o ∈ s.drives[d].queue → o.phase ≠ .transferring

theorem State.channelFree_of_not_held {s : State} (h : s.channelHeld = false) : s.ChannelFree := fun d o ho hp => by
  rw [State.channelHeld_of ho hp] at h; cases h

theorem transferring_eq_nil {q : List Op} : transferring q = [] ↔ ∀ o ∈ q, o.phase ≠ .transferring := by
  unfold transferring
  rw [List.filter_eq_nil_iff]
  simp

@[simp] theorem Drive.watchAt_queue (v : Drive) (now : Nat) : (v.watchAt now).queue = v.queue := rfl

@[simp] theorem Drive.lose_queue (v : Drive) (now delay : Nat) : (v.lose now delay).queue = v.queue := by
  unfold Drive.lose
  split
  · dsimp only; split <;> rfl
  · rfl
  · rfl

namespace Sound

variable {s t u : State}

/-! ### Tables that are neither queue nor slot -/

theorem updRecord (h : Sound s t) (d : DriveNo) (f : MountRecord → MountRecord) : Sound s (t.updRecord d f) :=
  h.fields rfl rfl rfl rfl

theorem setWaiter (h : Sound s t) (r : Requester) (e : WaiterEntry) : Sound s (t.setWaiter r e) := h.fields rfl rfl rfl rfl

theorem waiters (h : Sound s t) (w : Vector WaiterEntry 8) : Sound s { t with waiters := w } := h.fields rfl rfl rfl rfl

theorem pass (h : Sound s t) (p : Option Pass) : Sound s { t with pass := p } := h.fields rfl rfl rfl rfl

theorem advance (h : Sound s t) (ms : Nat) : Sound s (t.advance ms) := h.fields rfl rfl rfl rfl

theorem sense (h : Sound s t) (p : Pins) : Sound s (t.sense p) := h.fields rfl rfl rfl rfl

theorem answered (h : Sound s t) (a : Answer) : Sound s (t.answered a) := h.fields rfl rfl rfl rfl

theorem report (h : Sound s t) (d : DriveNo) (r : Report) : Sound s (t.report d r) := h.fields rfl rfl rfl rfl

theorem driveFault (h : Sound s t) (d : DriveNo) (c : FaultCode) (cyl head : Nat) (id : Option Nat) :
    Sound s (t.driveFault d c cyl head id) := h.report _ _

theorem setOutcome (h : Sound s t) (d : DriveNo) (o : ReqOutcome) : Sound s (t.setOutcome d o) := h.updRecord _ _

theorem endRequest (h : Sound s t) (d : DriveNo) (v : VolumeState) (o : ReqOutcome) : Sound s (t.endRequest d v o) :=
  h.updRecord _ _

theorem unmount (h : Sound s t) (d : DriveNo) : Sound s (t.unmount d) := h.fields rfl rfl rfl rfl

theorem fillAbsent (h : Sound s t) (k size : Nat) (q : Nat → Bool) : Sound s (t.fillAbsent k size q) :=
  h.fields rfl rfl rfl rfl

theorem failDriveWaiters (h : Sound s t) (d : DriveNo) (c : WaitFailure) : Sound s (t.failDriveWaiters d c) := h.waiters _

theorem failFillWaiters (h : Sound s t) (key : Key) (f : DriveFailure) : Sound s (t.failFillWaiters key f) := h.waiters _

/-! ### Slots in a fold -/

/-- A fold over slots, each step of which keeps what the steps need of every slot. -/
theorem foldSlots {f : State → Nat → State} {P : Slot → Prop} (hf : ∀ u k, P (u.slot k) → Sound u (f u k))
    (hp : ∀ u k j, P (u.slot k) → P (u.slot j) → P ((f u k).slot j)) (ks : List Nat) (h : Sound s t)
    (hk : ∀ k ∈ ks, P (t.slot k)) : Sound s (ks.foldl f t) := by
  induction ks generalizing t with
  | nil => exact h
  | cons k ks ih =>
    have hk0 := hk k List.mem_cons_self
    exact ih (h.trans (hf t k hk0)) fun j hj => hp t k j hk0 (hk j (List.mem_cons_of_mem _ hj))

/-- A slot that holds a track becomes STRANDED. -/
theorem strandSlot (h : Sound s t) {k : Nat} (hk : (t.slot k).state ≠ .free) : Sound s (t.strandSlot k) :=
  (h.fillAbsent k _ _).slot k fun _ _ => ⟨⟨fun e => (by cases e), fun e => absurd e hk⟩, rfl, fun e => absurd rfl e⟩

end Sound

/-- Stranding frees no slot. -/
theorem State.strandSlot_not_free (s : State) (k j : Nat) (h : (s.slot j).state ≠ .free) :
    ((s.strandSlot k).slot j).state ≠ .free := by
  refine State.slot_updSlot_of (s := s.fillAbsent k (s.slotSectorSize k) (fun _ => true))
    (P := fun x y => x.state ≠ .free → y.state ≠ .free) j (fun g => g) (fun _ _ _ => ?_) h
  exact fun e => by cases e

theorem State.strandSlots_not_free (ks : List Nat) {s : State} {j : Nat} (h : (s.slot j).state ≠ .free) :
    ((ks.foldl State.strandSlot s).slot j).state ≠ .free := by
  induction ks generalizing s with
  | nil => exact h
  | cons k ks ih => exact ih (s.strandSlot_not_free k j h)

namespace Sound

variable {s t u : State}

theorem strandSlots (h : Sound s t) (ks : List Nat) (hk : ∀ k ∈ ks, (t.slot k).state ≠ .free) :
    Sound s (ks.foldl State.strandSlot t) :=
  foldSlots (P := fun x => x.state ≠ .free) (fun u _ hu => (refl u).strandSlot hu)
    (fun u k j _ hj => u.strandSlot_not_free k j hj) ks h hk

/-! ### Queues -/

theorem updOp (h : Sound s t) (d : DriveNo) (k : Option Nat) {f : Op → Op} (hw : ∀ o, (f o).work.slot? = o.work.slot?)
    (hc : ∀ o, (f o).phase ≠ .queued → o.phase ≠ .queued) (ht : ∀ o, (f o).phase = .transferring → o.phase = .transferring) :
    Sound s (t.updOp d k f) :=
  h.updDrive d fun v => .of_map (fun o => by split <;> [exact hw o; rfl])
    (fun o => by split <;> [exact hc o; exact id]) (fun o => by split <;> [exact ht o; exact id]) v.queue

/-- An operation of a slot changed, but for its slot and its phase. -/
theorem updOpSame (h : Sound s t) (d : DriveNo) (k : Option Nat) {f : Op → Op}
    (hf : ∀ o, (f o).work.slot? = o.work.slot? ∧ (f o).phase = o.phase) : Sound s (t.updOp d k f) :=
  h.updOp d k (fun o => (hf o).1) (fun o => by rw [(hf o).2]; exact id) (fun o => by rw [(hf o).2]; exact id)

theorem removeOp (h : Sound s t) (d : DriveNo) (k : Option Nat) : Sound s (t.removeOp d k) :=
  h.updDrive d fun _ => .of_sublist List.filter_sublist

/-- An operation of a slot for which the drive has none is queued. -/
theorem queueOp (h : Sound s t) {d : DriveNo} {w : Work} (hn : t.drives[d].opOf w.slot? = none) (r : Option Reason)
    (c e : Nat) (cls : OpClass) : Sound s (t.queueOp d w r c e cls) := by
  refine h.queue d fun g => ?_
  obtain ⟨hd, -⟩ := (State.queuesSound_iff t).mp (h.queues g)
  obtain ⟨hc, hw⟩ := hd d
  refine ⟨?_, ?_, ?_⟩
  · unfold currents at hc ⊢
    rw [List.filter_append, List.filter_singleton]
    simpa [Op.isCurrent] using hc
  · unfold works at hw ⊢
    rw [List.map_append, List.nodup_append]
    refine ⟨hw, List.nodup_singleton _, fun a ha b hb => ?_⟩
    obtain ⟨o, ho, rfl⟩ := List.mem_map.mp ha
    rw [List.mem_singleton.mp hb]
    exact Drive.opOf_none.mp hn o ho
  · unfold transferring
    rw [List.filter_append, List.filter_singleton]
    simp

theorem mergeOp (h : Sound s t) (d : DriveNo) (k : Option Nat) (cls : OpClass) (b : Bool) :
    Sound s (t.updOp d k (fun o => o.merge cls b)) := h.updOpSame d k fun _ => ⟨Work.mark_slot _ _, rfl⟩

theorem requestFill (h : Sound s t) (k : Nat) (key : Key) (cls : OpClass) : Sound s (t.requestFill k key cls) := by
  unfold State.requestFill; split
  · exact h.mergeOp _ _ _ _
  · rename_i hn; exact h.queueOp hn _ _ _ _

theorem requestWrite (h : Sound s t) (k : Nat) (r : Reason) (cls : OpClass) : Sound s (t.requestWrite k r cls) := by
  unfold State.requestWrite; split
  · split
    · exact h.mergeOp _ _ _ _
    · rename_i hn; exact h.queueOp hn _ _ _ _
  · exact h

theorem requestProbe (h : Sound s t) (d : DriveNo) (cls : OpClass) : Sound s (t.requestProbe d cls) := by
  unfold State.requestProbe; split
  · exact h.mergeOp _ _ _ _
  · rename_i hn; exact h.queueOp hn _ _ _ _

theorem requestWriteFor (h : Sound s t) (k : Nat) (r : Reason) (cls : OpClass) : Sound s (t.requestWriteFor k r cls) := by
  have g : Sound s ((t.updSlot k (fun x => { x with writeFailed := false })).requestWrite k r cls) :=
    (h.slotSame k (f := fun x => { x with writeFailed := false }) fun _ => ⟨rfl, rfl, rfl⟩).requestWrite k r cls
  unfold State.requestWriteFor
  extract_lets s1 fills
  clear_value fills
  exact ite (fun _ => g.slotSame k fun _ => ⟨rfl, rfl, rfl⟩) fun _ => g

theorem writesFor (h : Sound s t) (ks : List Nat) (r : Reason) (c : OpClass) :
    Sound s (ks.foldl (fun u k => u.requestWriteFor k r c) t) :=
  foldl (f := fun u k => u.requestWriteFor k r c) (fun u k => (refl u).requestWriteFor k r c) ks h

theorem ageCheck (h : Sound s t) (k : Nat) : Sound s (t.ageCheck k) := by
  unfold State.ageCheck; split
  · exact ite (fun _ => h.requestWrite _ _ _) fun _ => h
  · exact h

/-! ### Assignment and grants -/

theorem assign (h : Sound s t) {k : Nat} {key : Key} (hk : s.DirectorySound → k < t.slots.length) (hl : t.lookup key = none)
    (cls : OpClass) : Sound s (t.assign k key cls) :=
  (h.assigned ⟨rfl, rfl, rfl⟩ hk hl).requestFill _ _ _

theorem grants (skip : Option DriveNo) (xs : List (Requester × Waiter)) (h : Sound s t) :
    Sound s (State.grants skip xs t) := by
  induction xs generalizing t with
  | nil => exact h
  | cons x xs ih =>
    obtain ⟨r, w⟩ := x
    unfold State.grants
    split
    · exact ih h
    · rename_i hw
      have hl : t.lookup w.key = none := by_contra fun e => hw (.inr (.inl e))
      split
      · rename_i k hk
        exact ih ((h.assign (fun g => (h.directory g).victim_lt hk) hl _).waiters _)
      · split
        · exact h.requestWrite _ _ _
        · exact h

theorem releaseEvent (h : Sound s t) (skip : Option DriveNo) : Sound s (t.releaseEvent skip) := h.grants _ _

theorem released (h : Sound s t) (freed : List Nat) (skip : Option DriveNo) : Sound s (t.released freed skip) :=
  ite (fun _ => h) fun _ => h.releaseEvent skip

theorem evictionRepeat (h : Sound s t) : Sound s t.evictionRepeat := by
  unfold State.evictionRepeat; split
  · split
    · exact h.requestWrite _ _ _
    · exact h
  · exact h

/-! ### Write-back -/

theorem flushComplete (h : Sound s t) (d : DriveNo) : Sound s (t.flushComplete d) :=
  ite (fun _ => h.endRequest _ _ _) fun _ => h

theorem flushEnd (h : Sound s t) (d : DriveNo) (k : Nat) (e : WriteEnd) : Sound s (t.flushEnd d k e) := by
  unfold State.flushEnd
  split
  · exact h
  · split
    · exact (h.updRecord _ _).flushComplete _
    · exact (h.updRecord _ _).flushComplete _
    · exact (h.updRecord _ _).flushComplete _
    · exact ite (fun _ => (h.updRecord _ _).requestWriteFor _ _ _) fun _ => (h.updRecord _ _).flushComplete _

theorem freezeEnd (h : Sound s t) (d : DriveNo) (k : Nat) (e : WriteEnd) : Sound s (t.freezeEnd d k e) :=
  ite (fun _ => h.endRequest _ _ _) fun _ => h

theorem askAgain (h : Sound s t) (d : DriveNo) (k : Nat) : Sound s (t.askAgain d k) :=
  ite (fun _ => h.requestWriteFor _ _ _) fun _ => h

theorem afterWrite (h : Sound s t) (d : DriveNo) (k : Nat) (b : Bool) (e : WriteEnd) : Sound s (t.afterWrite d k b e) := by
  unfold State.afterWrite
  extract_lets s1 s2
  have g : Sound s s2 := (((h.flushEnd d k e).freezeEnd d k e).askAgain d k).ageCheck k
  clear_value s2 s1
  exact ite (fun _ => ite (fun _ => g) fun _ => g.releaseEvent _) fun _ => ite (fun _ => g.evictionRepeat) fun _ => g

theorem carryPending (h : Sound s t) (d : DriveNo) (k : Nat) : Sound s (t.carryPending d k) := by
  unfold State.carryPending
  split
  · exact h
  · have g := h.slotSame k (f := fun x => { x with pendingWrite := none }) fun _ => ⟨rfl, rfl, rfl⟩
    exact ite (fun _ => g.requestWriteFor _ _ _) fun _ => (g.updRecord _ _).flushComplete _

theorem afterFill (h : Sound s t) (d : DriveNo) (k : Nat) : Sound s (t.afterFill d k) :=
  ((h.carryPending d k).askAgain d k).ageCheck k

/-- A slot that holds a track and is not WRITING takes another state in which it holds it, but not WRITING. -/
theorem resident (h : Sound s t) {k : Nat} {f : Slot → Slot} (hk : (t.slot k).state ≠ .free ∧ (t.slot k).state ≠ .writing)
    (hf : ∀ x, (f x).state ≠ .free ∧ (f x).key = x.key ∧ (f x).active = x.active) : Sound s (t.updSlot k f) :=
  h.slot k fun g _ => by
    obtain ⟨hs, hkey, hact⟩ := hf (t.slot k)
    refine ⟨⟨fun e => absurd e hs, fun e => absurd e hk.1⟩, hkey, fun e => ?_⟩
    rw [hact] at e
    exact absurd ((h.directory g).active_none hk.2) e

/-- A WRITING or RESIDENT slot leaves its pass. -/
theorem leavePass (h : Sound s t) {k : Nat} {f : Slot → Slot} (hk : (t.slot k).state ≠ .free)
    (hf : ∀ x, (f x).state ≠ .free ∧ (f x).key = x.key ∧ (f x).active = none) : Sound s (t.updSlot k f) :=
  h.slot k fun _ _ => by
    obtain ⟨hs, hkey, hact⟩ := hf (t.slot k)
    exact ⟨⟨fun e => absurd e hs, fun e => absurd e hk⟩, hkey, fun e => absurd hact e⟩

theorem fillStopped (h : Sound s t) (k : Nat) : Sound s (t.fillStopped k) := by
  refine ite (fun _ => h) fun hk => ?_
  have hk : (t.slot k).state = .filling := not_not.mp hk
  refine ite (fun _ => ?_) fun _ => h.freeSlot fun _ e => by rw [hk] at e; cases e
  refine (h.fillAbsent k _ _).resident (k := k) ?_ fun x => ⟨fun e => (by cases e), rfl, rfl⟩
  show (t.slot k).state ≠ _ ∧ (t.slot k).state ≠ _
  rw [hk]
  exact ⟨fun e => (by cases e), fun e => (by cases e)⟩

theorem fillStoppedFully (h : Sound s t) (d : DriveNo) (k : Nat) : Sound s (t.fillStoppedFully d k) :=
  ite (fun _ => h) fun _ => ite (fun _ => (h.fillStopped k).afterFill _ _) fun _ => (h.fillStopped k).releaseEvent _

/-! ### Head movement -/

theorem position (h : Sound s t) (d : DriveNo) : Sound s (t.position d) :=
  h.updDrive d fun v => .of_map (f := fun o => o.atTarget t.now)
    (fun o => by unfold Op.atTarget; split <;> rfl)
    (fun o => by unfold Op.atTarget; split
                 · rename_i hp; rw [hp]; exact fun _ e => by cases e
                 · exact id)
    (fun o => by unfold Op.atTarget; split
                 · exact fun e => by cases e
                 · exact id) v.queue

theorem settleStage (h : Sound s t) (d : DriveNo) : Sound s (t.settleStage d) :=
  ite (fun _ => h.drive d fun _ => rfl) fun _ => h.position d

theorem loadStage (h : Sound s t) (d : DriveNo) : Sound s (t.loadStage d) :=
  (h.drive d fun v => by split <;> rfl).settleStage d

theorem giveStep (h : Sound s t) (d : DriveNo) (b : Bool) (m : Move) : Sound s (t.giveStep d b m) := h.drive d fun _ => rfl

theorem stepStage (h : Sound s t) (d : DriveNo) : Sound s (t.stepStage d) := by
  unfold State.stepStage; split
  · exact h
  · exact ite (fun _ => h.loadStage _) fun _ => h.giveStep _ _ _

theorem beginRecal (h : Sound s t) (d : DriveNo) : Sound s (t.beginRecal d) :=
  ite (fun _ => (h.drive d (f := fun v => { v with head := some 0 }) fun _ => rfl).stepStage d) fun _ => h.giveStep _ _ _

theorem recalStage (h : Sound s t) (d : DriveNo) : Sound s (t.recalStage d) :=
  ite (fun _ => h.beginRecal d) fun _ => h.stepStage d

theorem motorStage (h : Sound s t) (d : DriveNo) : Sound s (t.motorStage d) := by
  have hwait := h.drive d (f := fun v => { v with move := .waitStep }) fun _ => rfl
  unfold State.motorStage
  dsimp only
  split
  · exact h
  · exact h.drive d fun _ => rfl
  · exact ite (fun _ => hwait) fun _ => h.drive d fun _ => rfl
  · exact ite (fun _ => hwait) fun _ => h.recalStage d
  · exact ite (fun _ => hwait) fun _ => h.recalStage d

/-- A drive without a current operation is given one. -/
theorem choose (h : Sound s t) {d : DriveNo} (hn : t.drives[d].currentOp = none) (o : Op) (b : Bool) :
    Sound s (t.choose d o b) := by
  refine h.queue d fun g => ?_
  obtain ⟨hd, -⟩ := (State.queuesSound_iff t).mp (h.queues g)
  obtain ⟨-, hw⟩ := hd d
  refine ⟨?_, ?_, ?_⟩
  · refine le_trans (le_of_eq ?_) (length_filter_slot_le hw o.work.slot?)
    unfold currents
    rw [List.filter_map, List.length_map]
    refine congrArg List.length (List.filter_congr fun x hx => ?_)
    have hq := Drive.currentOp_none hn hx
    by_cases e : x.work.slot? = o.work.slot? <;> simp [Op.isCurrent, e, hq]
  · unfold works at hw ⊢
    rw [List.map_map]
    convert hw using 2
    funext x
    simp only [Function.comp_apply]
    split <;> rfl
  · exact length_filter_map_le (fun x hx => by split at hx <;> simp_all) _

theorem notices (h : Sound s t) : Sound s t.notices :=
  h.tamer fun d => by
    rw [updAll_get]
    rw [Drive.watchAt_queue]
    split
    · rw [Drive.lose_queue]; exact .refl _
    · exact .refl _

/-! ### Volumes -/

theorem mountEnd (h : Sound s t) (d : DriveNo) (r : ProbeResult) : Sound s (t.mountEnd d r) := by
  unfold State.mountEnd
  split
  · exact h.fields rfl rfl rfl rfl
  all_goals exact (h.unmount _).setOutcome _ _

theorem reclaimSlots (h : Sound s t) (d : DriveNo) (cls : OpClass) : Sound s (t.reclaimSlots d cls) := by
  refine writesFor (foldSlots (f := fun u k => u.updSlot k (fun x => x.reclaimed t.now.ms))
    (P := fun x => x.state ≠ .free ∧ x.state ≠ .writing)
    (fun u k hu => (refl u).resident hu fun x => ⟨fun e => (by cases e), rfl, rfl⟩) (fun u k j _ hj => ?_) _ h fun k hk => ?_) _ _ _
  · refine State.slot_updSlot_of (P := fun _ y => y.state ≠ .free ∧ y.state ≠ .writing) j hj fun _ _ => ?_
    exact ⟨fun e => (by cases e), fun e => (by cases e)⟩
  · obtain ⟨-, hq⟩ := State.mem_slotsWhere.mp hk
    simp only [Bool.and_eq_true, decide_eq_true_eq] at hq
    rw [hq.2]
    exact ⟨fun e => (by cases e), fun e => (by cases e)⟩

theorem reclaimEnd (h : Sound s t) (d : DriveNo) (r : ProbeResult) : Sound s (t.reclaimEnd d r) := by
  unfold State.reclaimEnd
  split
  · exact ite (fun _ => (h.reclaimSlots _ _).endRequest _ _ _) fun _ => h.endRequest _ _ _
  all_goals exact h.endRequest _ _ _

theorem probeEnded (h : Sound s t) (d : DriveNo) (r : ProbeResult) : Sound s (t.probeEnded d r) := by
  unfold State.probeEnded
  split
  · exact h.mountEnd _ _
  · exact h.reclaimEnd _ _
  · exact h

theorem dropOps (h : Sound s t) (d : DriveNo) (q : Op → Bool) : Sound s (t.dropOps d q) := by
  unfold State.dropOps
  extract_lets gone s1
  have g : Sound s s1 := h.updDrive d fun _ => .of_sublist List.filter_sublist
  clear_value s1
  exact ite (fun _ => g.pass _) fun _ => g

/-- The slots of a drive become FREE, after work that has left them. -/
theorem freeSlotsOf (h : Sound s t) {d : DriveNo} (hs : u.slots = t.slots) (g : Sound s u) : Sound s (u.freeSlots (t.slotsOf d)) :=
  g.freeSlots (State.slotsWhere_nodup _ _) fun e k hk => by
    rw [show u.slot k = t.slot k from by unfold State.slot; rw [hs]]
    exact (h.directory e).slotsOf_not_free hk

end Sound

theorem State.dropOps_slots (s : State) (d : DriveNo) (q : Op → Bool) : (s.dropOps d q).slots = s.slots := by
  unfold State.dropOps; dsimp only; split <;> rfl

namespace Sound

variable {s t u : State}

theorem discardNow (h : Sound s t) (d : DriveNo) : Sound s (t.discardNow d) :=
  ((((h.freeSlotsOf (t.dropOps_slots d _) (h.dropOps d _)).failDriveWaiters _ _).unmount _).setOutcome _ _).released _ _

theorem discardIfPending (h : Sound s t) (d : DriveNo) : Sound s (t.discardIfPending d) :=
  ite (fun _ => h.discardNow d) fun _ => h

theorem releaseDone (h : Sound s t) (d : DriveNo) : Sound s (t.releaseDone d) :=
  (((h.freeSlotsOf rfl h).unmount _).setOutcome _ _).released _ _

theorem fillsStopped (h : Sound s t) (ks : List Nat) : Sound s (ks.foldl State.fillStopped t) :=
  foldl (f := State.fillStopped) (fun u k => (refl u).fillStopped k) ks h

theorem releasePhase2 (h : Sound s t) (d : DriveNo) : Sound s (t.releasePhase2 d) := by
  unfold State.releasePhase2
  extract_lets s1 dropped freed
  have g : Sound s s1 := (h.updRecord _ _).dropOps d _
  clear_value s1
  exact ite (fun _ => g.releaseDone d) fun _ => (g.fillsStopped dropped).released freed none

theorem removeSlots (h : Sound s t) (d : DriveNo) : Sound s (t.removeSlots d) := by
  refine (h.strandSlots _ fun k hk => ?_).freeSlots (State.slotsWhere_nodup _ _) fun _ k hk =>
    State.strandSlots_not_free _ ?_
  all_goals
    obtain ⟨-, hq⟩ := State.mem_slotsWhere.mp hk
    intro e
    simp [Slot.strandedByRemoval, Slot.freedByRemoval, e] at hq

theorem removeVolume (h : Sound s t) (d : DriveNo) : Sound s (t.removeVolume d) := by
  unfold State.removeVolume
  exact (ite (fun _ => h.unmount d) fun _ => (h.endRequest _ _ _).updRecord _ _).setOutcome _ _

theorem removeDiskette (h : Sound s t) (d : DriveNo) : Sound s (t.removeDiskette d) :=
  (((h.removeSlots d).removeVolume d).failDriveWaiters _ _).released _ _

theorem drainVolume (h : Sound s t) (d : DriveNo) : Sound s (t.drainVolume d) :=
  ite (fun _ => h.unmount d) fun _ => h.updRecord _ _

theorem drainEnd (h : Sound s t) : Sound s t.drainEnd := by
  unfold State.drainEnd
  extract_lets s1 freed
  have g1 : Sound s s1 := h.strandSlots _ fun k hk e => by
    obtain ⟨-, hq⟩ := State.mem_slotsWhere.mp hk
    simp [e] at hq
  have g2 : Sound s (s1.freeSlots freed) := g1.freeSlots (State.slotsWhere_nodup _ _) fun _ k hk e => by
    obtain ⟨-, hq⟩ := State.mem_slotsWhere.mp hk
    simp [e] at hq
  have g3 := (foldl (f := State.drainVolume) (fun u d => (refl u).drainVolume d) driveNos g2).released freed none
  exact g3.fields rfl rfl rfl rfl

end Sound

end Sys2Proof.Machine
end

section
/-! SUPPORT. Passes, accesses, writes and events keep the queues and the slot table sound, and so does every command. -/

namespace Sys2Proof.Machine

/-- A pass report that applies finds its slot holding a track. -/
theorem State.applies_not_free {s : State} {k : Nat} {key : Key} {gen : Byte} {st : SlotState}
    (h : s.applies k key gen st = true) (hst : st ≠ .free) : (s.slot k).state ≠ .free := by
  rw [State.applies_state h]; exact hst

/-- Sector work on a slot, position by position, leaves its state, its key and its active sector. -/
theorem Slot.foldl_setSector (f : Sector → Sector) (ps : List Nat) (x : Slot) :
    (ps.foldl (fun u q => u.setSector q f) x).state = x.state ∧ (ps.foldl (fun u q => u.setSector q f) x).key = x.key ∧
      (ps.foldl (fun u q => u.setSector q f) x).active = x.active := by
  induction ps generalizing x with
  | nil => exact ⟨rfl, rfl, rfl⟩
  | cons p ps ih => exact ih (x.setSector p f)

namespace Sound

variable {s t u : State}

/-! ### Ends of operations -/

theorem endOp (h : Sound s t) (d : DriveNo) (k : Option Nat) : Sound s (t.endOp d k) :=
  ((h.removeOp d k).drive d (f := fun v => { v with move := .idle, moved := false }) fun _ => rfl).pass none

theorem failWrite (h : Sound s t) (k : Nat) : Sound s (t.failWrite k) :=
  ite (fun hk => h.leavePass (by rcases hk with e | e <;> rw [e] <;> exact fun e => by cases e)
    fun _ => ⟨fun e => (by cases e), rfl, rfl⟩) fun _ => h

theorem opFailed (h : Sound s t) (d : DriveNo) (f : DriveFailure) : Sound s (t.opFailed d f) := by
  unfold State.opFailed
  split
  · exact h
  · rename_i o _
    extract_lets s0 s1 s2
    have g0 : Sound s s0 := h.drive d fun _ => rfl
    have g1 : Sound s s1 := ite (fun _ => g0.endOp _ _) fun _ => g0.removeOp _ _
    have g : Sound s s2 := g1.driveFault _ _ _ _ _
    clear_value s2 s1 s0
    split
    · exact (g.failFillWaiters _ _).fillStoppedFully _ _
    · exact ((g.failWrite _).afterWrite _ _ _ _).discardIfPending _
    · exact g.probeEnded _ _

theorem fillEnd (h : Sound s t) (p : Pass) : Sound s (t.fillEnd p) := by
  unfold State.fillEnd
  split
  · extract_lets lost s0 s1
    have g : Sound s s1 := by
      refine ite (fun ha => ?_) fun _ => h
      have hs := State.applies_state ha
      have g0 : Sound s s0 := by
        refine (h.fillAbsent _ _ _).resident ?_ fun _ => ⟨fun e => (by cases e), rfl, rfl⟩
        show (t.slot _).state ≠ _ ∧ (t.slot _).state ≠ _
        rw [hs]
        exact ⟨fun e => (by cases e), fun e => (by cases e)⟩
      clear_value s0 lost
      split
      · exact g0
      · exact g0.driveFault _ _ _ _ _
    clear_value s1
    exact (g.endOp _ _).afterFill _ _
  · exact h

theorem writeRefused (h : Sound s t) (d : DriveNo) (o : Op) (k : Nat) (e : Bool) : Sound s (t.writeRefused d o k e) := by
  unfold State.writeRefused
  extract_lets s1
  have g : Sound s s1 := h.slotSame k fun _ => ⟨rfl, rfl, rfl⟩
  clear_value s1
  exact ((g.endOp _ _).driveFault _ _ _ _ _).afterWrite _ _ _ _

theorem beginWrite (h : Sound s t) (d : DriveNo) (o : Op) (k : Nat) (g : Byte) (e : Bool) :
    Sound s (t.beginWrite d o k g e) := by
  unfold State.beginWrite
  refine ite (fun _ => h.writeRefused _ _ _ _) fun _ => ite (fun hr => ?_) fun _ => ?_
  · refine (h.slot k (f := Slot.passStarts) fun _ _ => ⟨⟨fun e => (by cases e), fun e => ?_⟩, rfl, fun _ => rfl⟩).pass _
    rw [hr.1] at e; cases e
  · exact ((h.slotSame k (f := fun t => { t with yields := 0 }) fun _ => ⟨rfl, rfl, rfl⟩).endOp _ _).afterWrite _ _ _ _

theorem writeEnd (h : Sound s t) (p : Pass) : Sound s (t.writeEnd p) := by
  unfold State.writeEnd
  split
  · extract_lets s1
    have g : Sound s s1 := ite (fun ha => h.leavePass (State.applies_not_free ha fun e => (by cases e))
      fun _ => ⟨fun e => (by cases e), rfl, rfl⟩) fun _ => h
    clear_value s1
    exact (g.endOp _ _).afterWrite _ _ _ _
  · exact h

/-- Sector work on a slot. -/
theorem sectors (h : Sound s t) (k : Nat) (f : Sector → Sector) (ps : List Nat) :
    Sound s (t.updSlot k (fun x => ps.foldl (fun u q => u.setSector q f) x)) :=
  h.slotSame k fun x => Slot.foldl_setSector f ps x

theorem setSector (h : Sound s t) (k q : Nat) (f : Sector → Sector) : Sound s (t.updSlot k (fun x => x.setSector q f)) :=
  h.slotSame k fun _ => ⟨rfl, rfl, rfl⟩

theorem sectorsFail (h : Sound s t) (p : Pass) (c : FaultCode) (ps : List Nat) : Sound s (t.sectorsFail p c ps) := by
  unfold State.sectorsFail
  split
  · extract_lets s1
    have g : Sound s s1 := ite (fun _ => h.slotSame _ fun x => Slot.foldl_setSector Sector.undo ps x) fun _ => h
    clear_value s1
    exact g.driveFault _ _ _ _ _
  · exact h

theorem writeRoundEnd (h : Sound s t) (p : Pass) : Sound s (t.writeRoundEnd p) := by
  unfold State.writeRoundEnd
  split
  · extract_lets s1
    have g : Sound s s1 := ite (fun _ => h) fun _ => h.sectorsFail _ _ _
    clear_value s1
    exact ite (fun _ => g.pass _) fun _ => g.writeEnd _
  · exact h

theorem verifyRoundEnd (h : Sound s t) (p : Pass) (bad : List Nat) : Sound s (t.verifyRoundEnd p bad) := by
  unfold State.verifyRoundEnd
  split
  · exact h
  · refine ite (fun _ => h.writeEnd _) fun _ => ite (fun _ => ?_) fun _ => (h.sectorsFail _ _ _).writeEnd _
    extract_lets s1 todo p1
    have g : Sound s s1 := ite (fun _ => h.sectors _ _ bad) fun _ => h
    clear_value p1 todo s1
    exact ite (fun _ => (g.pass _).writeRoundEnd _) fun _ => g.pass _

theorem verifyResult (h : Sound s t) (p : Pass) (q : Nat) (b : Bool) : Sound s (t.verifyResult p q b) := by
  unfold State.verifyResult
  split
  · extract_lets s1 todo1 bad1 p1 s2
    have g : Sound s s1 := ite (fun _ => h.setSector _ q fun e => e.verified b) fun _ => h
    have g2 : Sound s s2 := g.pass _
    clear_value s2 p1 bad1 todo1 s1
    exact ite (fun _ => g2.verifyRoundEnd _ _) fun _ => g2
  · exact h

theorem verifyTimeout (h : Sound s t) (p : Pass) : Sound s (t.verifyTimeout p) := by
  unfold State.verifyTimeout
  split
  · extract_lets s1
    have g : Sound s s1 := ite (fun _ => h.sectors _ (fun e => e.verified false) _) fun _ => h
    clear_value s1
    exact g.verifyRoundEnd _ _
  · exact h

theorem probeEnd (h : Sound s t) (p : Pass) (r : ProbeResult) : Sound s (t.probeEnd p r) := (h.endOp _ _).probeEnded _ _

theorem beginPass (h : Sound s t) (d : DriveNo) (o : Op) : Sound s (t.beginPass d o) := by
  unfold State.beginPass
  split
  · exact ite (fun _ => h.pass _) fun _ => (h.pass _).fillEnd _
  · exact h.beginWrite _ _ _ _ _
  · exact h.pass _

/-! ### The channel -/

/-- The free channel is given to a current operation. -/
theorem giveChannel (h : Sound s t) (hf : s.QueuesSound → t.ChannelFree) {d : DriveNo} {o : Op}
    (ho : t.drives[d].currentOp = some o) : Sound s (t.giveChannel d o) where
  queues := fun g => by
    have hn : ∀ e : DriveNo, transferring t.drives[e].queue = [] := fun e => transferring_eq_nil.mpr (hf g e)
    obtain ⟨hd, -⟩ := (State.queuesSound_iff t).mp (h.queues g)
    obtain ⟨hmem, hcur⟩ := Drive.currentOp_mem ho
    obtain ⟨hc, hw⟩ := hd d
    have hphase : ∀ x ∈ t.drives[d].queue, x.work.slot? = o.work.slot? → x.phase ≠ .queued := fun x hx e =>
      eq_of_slot hw hx hmem e ▸ hcur
    rw [State.queuesSound_iff]
    refine ⟨fun e => ?_, ?_⟩
    · unfold State.giveChannel State.updOp
      rw [State.updDrive_drives, upd_get]
      split
      · refine ⟨?_, ?_⟩
        · unfold currents at hc ⊢
          rw [List.filter_map, List.length_map]
          refine le_trans (le_of_eq (congrArg List.length (List.filter_congr fun x hx => ?_))) hc
          by_cases e : x.work.slot? = o.work.slot? <;> simp [Op.isCurrent, e, hphase x hx]
        · unfold works at hw ⊢
          rw [List.map_map]
          convert hw using 2
          funext x
          simp only [Function.comp_apply]
          split <;> rfl
      · exact hd e
    · refine le_trans (le_of_eq ?_) (length_filter_slot_le hw o.work.slot?)
      rw [Finset.sum_eq_single d]
      · unfold State.giveChannel State.updOp transferring
        rw [State.updDrive_drives, upd_get_same, List.filter_map, List.length_map]
        refine congrArg List.length (List.filter_congr fun x hx => ?_)
        have hx' := hf g d x hx
        by_cases e : x.work.slot? = o.work.slot? <;> simp [e, hx']
      · intro e _ he
        unfold State.giveChannel State.updOp
        rw [State.updDrive_drives, upd_get_ne _ _ (Ne.symm he), hn e]; rfl
      · exact fun e => absurd (Finset.mem_univ d) e
  directory := fun g => by
    obtain ⟨h1, h2, h3, h4, h5, h6, h7⟩ := h.directory g
    exact ⟨h1, h2, h3, h4, h5, h6, h7⟩

theorem startPass (h : Sound s t) (d : DriveNo) (o : Op) : Sound s (t.startPass d o) :=
  ite (fun _ => h.beginPass d o) fun _ => h.opFailed d .notReady

/-! ### The schedule -/

theorem volumeStep (h : Sound s t) {d : DriveNo} {u : State} (hu : t.volumeStep d = some u) : Sound s u := by
  unfold State.volumeStep at hu
  split at hu
  · split at hu
    · cases hu; exact h.endRequest _ _ _
    · cases hu
  · repeat' split at hu
    all_goals cases hu
    · exact h.releasePhase2 _
    · exact h.releaseDone _
  · cases hu

theorem drainStep (h : Sound s t) {u : State} (hu : t.drainStep = some u) : Sound s u := by
  unfold State.drainStep at hu
  split at hu
  · rw [← Option.some.inj hu]
    exact h.drainEnd
  · cases hu

theorem selectStep (h : Sound s t) {d : DriveNo} {u : State} (hu : t.selectStep d = some u) : Sound s u := by
  unfold State.selectStep at hu
  dsimp only at hu
  split at hu
  · cases hu
  · rename_i hn
    split at hu
    · cases hu
    · split at hu
      · cases hu; exact (h.choose hn _ _).opFailed _ _
      · cases hu; exact (h.choose hn _ _).motorStage _

theorem arbiterStep (h : Sound s t) {u : State} (hu : t.arbiterStep = some u) : Sound s u := by
  unfold State.arbiterStep at hu
  split at hu
  · cases hu
  · rename_i hf
    obtain ⟨x, hx, rfl⟩ := Option.map_eq_some_iff.mp hu
    have hfree := State.channelFree_of_not_held (Bool.eq_false_iff.mpr hf)
    exact (h.giveChannel (fun _ => hfree) (State.arbiterChoice_current hx)).startPass _ _

theorem nextStep (h : Sound s t) {u : State} (hu : t.nextStep = some u) : Sound s u := by
  unfold State.nextStep at hu
  simp only [Option.orElse_eq_orElse, Option.orElse_eq_or, Option.or_eq_some_iff, List.findSome?_eq_some_iff] at hu
  rcases hu with ⟨_, d, _, _, hd, _⟩ | ⟨_, hu⟩
  · exact h.volumeStep hd
  · rcases hu with hu | ⟨_, hu⟩
    · exact h.drainStep hu
    · rcases hu with ⟨_, d, _, _, hd, _⟩ | ⟨_, hu⟩
      · exact h.selectStep hd
      · exact h.arbiterStep hu

theorem settleLoop (n : Nat) (h : Sound s t) : Sound s (State.settleLoop n t) := by
  induction n generalizing t with
  | zero => exact h
  | succ n ih =>
    unfold State.settleLoop
    split
    · rename_i u hu; exact ih (h.nextStep hu)
    · exact h

theorem schedule (h : Sound s t) : Sound s t.schedule := (h.settleLoop _).notices

theorem roundCheck (h : Sound s t) (p : Pass) : Sound s (t.roundCheck p) := by
  unfold State.roundCheck
  split
  · exact ite (fun _ => h.fillEnd _) fun _ => h
  · exact ite (fun _ => h.writeRoundEnd _) fun _ => h
  · exact ite (fun _ => h.verifyTimeout _) fun _ => h
  · exact ite (fun _ => h.probeEnd _ _) fun _ => h
  · exact h

theorem searchPulse (h : Sound s t) (p : Pass) (n : Nat) : Sound s (t.searchPulse p n) := by
  unfold State.searchPulse
  split
  · exact ite (fun _ => h.pass _) fun _ => h.probeEnd _ _
  · exact ite (fun _ => h.pass _) fun _ => h.probeEnd _ _
  · exact h

theorem passPulse (h : Sound s t) (p : Pass) : Sound s (t.passPulse p) := by
  unfold State.passPulse
  refine ite (fun _ => h.pass _) fun _ => ?_
  split
  · exact (h.pass _).searchPulse _ _
  · exact (h.pass _).roundCheck _

theorem beginRecovery (h : Sound s t) (p : Pass) : Sound s (t.beginRecovery p) :=
  ite (fun _ => h.opFailed _ _) fun _ =>
    ((h.pass _).drive p.drive (f := fun v => { v with moved := true }) fun _ => rfl).beginRecal _

theorem recoveryEnd (h : Sound s t) (p : Pass) : Sound s (t.recoveryEnd p) :=
  ((h.pass _).drive p.drive (f := fun v => { v with side := p.head, move := .idle, moved := false }) fun _ => rfl).roundCheck _

theorem settled (h : Sound s t) (d : DriveNo) : Sound s (t.settled d) := by
  unfold State.settled
  split
  · exact ite (fun _ => ite (fun _ => h.recoveryEnd _) fun _ => h) fun _ => h.position _
  · exact h.position _

theorem stepDone (h : Sound s t) (d : DriveNo) (u : StepUnderWay) : Sound s (t.stepDone d u) := by
  have g := h.drive d (f := fun v => { v with step := none, head := reckon v.head u.inward }) fun _ => rfl
  unfold State.stepDone
  dsimp only
  split
  · exact ite (fun _ => (g.drive d (f := fun v => { v with head := some 0 }) fun _ => rfl).stepStage _) fun _ =>
      ite (fun _ => (g.drive d (f := fun v => { v with head := none }) fun _ => rfl).opFailed _ _) fun _ => g.giveStep _ _ _
  · exact g.stepStage _
  · exact g.motorStage _
  · exact g

/-! ### Aperture accesses -/

theorem final (h : Sound s t) (r : Requester) (a : Answer) : Sound s (t.final r a) := (h.setWaiter _ _).answered _

theorem refuse (h : Sound s t) (a : Access) (c : FaultCode) : Sound s (t.refuse a c) := (h.report _ _).final _ _

theorem dropWrite (h : Sound s t) (a : Access) : Sound s (t.dropWrite a) := (h.report _ _).final _ _

theorem raiseFill (h : Sound s t) (key : Key) (c : OpClass) (e : Hold) : Sound s (t.raiseFill key c e) := by
  unfold State.raiseFill
  refine ite (fun _ => ?_) fun _ => h
  split
  · exact h.updOpSame _ _ fun o => by split <;> exact ⟨rfl, rfl⟩
  · exact h

theorem hold (h : Sound s t) (a : Access) (e : Hold) : Sound s (t.hold a e) := by
  unfold State.hold
  extract_lets e1 w s1
  have g : Sound s s1 := h.report _ _
  clear_value s1 w e1
  split
  · exact ((h.setWaiter _ _).raiseFill _ _ _).answered _
  · exact ite (fun _ => g.final _ _) fun _ => ((g.setWaiter _ _).raiseFill _ _ _).answered _

theorem serveRead (h : Sound s t) {k : Nat} (hk : (t.slot k).state ≠ .free) (a : Access) : Sound s (t.serveRead k a) := by
  unfold State.serveRead
  extract_lets e s1
  have g : Sound s s1 ∧ (s1.slot k).state ≠ .free := by
    by_cases hc : e.state = .damaged ∧ e.report = true
    · simp only [s1, if_pos hc]
      exact ⟨(h.report _ _).setSector _ _ _, State.slot_updSlot_of (s := t.report a.drive _)
        (P := fun x y => x.state ≠ .free → y.state ≠ .free) k id (fun _ _ => id) hk⟩
    · simp only [s1, if_neg hc]
      exact ⟨h, hk⟩
  clear_value s1
  exact (g.1.touch g.2).final _ _

theorem acceptWrite (h : Sound s t) {k : Nat} (hk : (t.slot k).state ≠ .free) (a : Access) (l : Lanes) :
    Sound s (t.acceptWrite k a l) := by
  unfold State.acceptWrite
  extract_lets base s1 s2
  have g1 : Sound s s1 := h.fields rfl rfl rfl rfl
  have gk : ((s1.updSlot k (fun x => x.writtenByBus a.place.sector t.now.ms)).slot k).state ≠ .free :=
    State.slot_updSlot_of (s := s1) (P := fun x y => x.state ≠ .free → y.state ≠ .free) k id (fun _ _ => id) hk
  have g2 : Sound s s2 := ((g1.slotSame k (f := fun x => x.writtenByBus a.place.sector t.now.ms) fun _ => ⟨rfl, rfl, rfl⟩).touch gk).ageCheck _
  clear_value s2 s1
  exact (ite (fun _ => g2) fun _ => g2.schedule).final _ _

theorem hit (h : Sound s t) {k : Nat} (hk : (t.slot k).state ≠ .free) (a : Access) : Sound s (t.hit k a) := by
  unfold State.hit
  extract_lets st
  refine ite (fun _ => h.hold _ _) fun _ => ?_
  split
  · exact h.serveRead hk _
  · exact ite (fun _ => h.hold _ _) fun _ => h.acceptWrite hk _ _

/-- A miss, of a key that no slot holds. -/
theorem miss (h : Sound s t) {a : Access} (hl : t.lookup a.key = none) : Sound s (t.miss a) := by
  unfold State.miss
  split
  · rename_i k hk
    exact ((h.assign (fun g => (h.directory g).victim_lt hk) hl _).hold _ _).schedule
  · split
    · exact ((h.requestWrite _ _ _).hold _ _).schedule
    · exact (h.report _ _).hold _ _

theorem directory_access (h : Sound s t) (a : Access) : Sound s (t.directory a) := by
  unfold State.directory State.found
  cases hl : t.lookup a.key with
  | none =>
    exact ite (fun _ => h.refuse _ _) fun _ => ite (fun _ => h.refuse _ _) fun _ =>
      ite (fun _ => h.hold _ _) fun _ => h.miss hl
  | some k =>
    obtain ⟨-, hk, -⟩ := State.lookup_some hl
    by_cases hc : t.volumeLost a.drive = true ∧ (t.slot k).state ≠ .stranded
    · simp only [if_pos hc, if_pos hc.1]
      exact h.refuse _ _
    · simp only [if_neg hc]
      exact h.hit hk a

theorem handOff (h : Sound s t) (a : Access) : Sound s (t.handOff a) := by
  unfold State.handOff
  split
  · exact h.final _ _
  · exact h.refuse _ _
  · exact h.directory_access _

theorem checkWrite (h : Sound s t) (a : Access) : Sound s (t.checkWrite a) :=
  ite (fun _ => h.dropWrite _) fun _ => ite (fun _ => h.dropWrite _) fun _ => ite (fun _ => h.hold _ _) fun _ => h.handOff _

theorem refuseEarly (h : Sound s t) (d : DriveNo) (r : Requester) (c : FaultCode) : Sound s (t.refuseEarly d r c) :=
  (h.report _ _).final _ _

theorem translate (h : Sound s t) (d : DriveNo) (v : Nat) (r : Requester) (l : Option Lanes) :
    Sound s (t.translate d v r l) := by
  unfold State.translate
  split
  · exact h.refuseEarly _ _ _
  · refine ite (fun _ => h.refuseEarly _ _ _) fun _ => ?_
    split
    · exact h.refuseEarly _ _ _
    · exact ite (fun _ => h.refuseEarly _ _ _) fun _ => ite (fun _ => h.checkWrite _) fun _ => h.handOff _

/-! ### Requests and Control Block writes -/

theorem beginRequest (h : Sound s t) (d : DriveNo) (v : VolumeState) (k : RequestKind) (c : OpClass) :
    Sound s (t.beginRequest d v k c) := h.updRecord _ _

theorem takeMount (h : Sound s t) (d : DriveNo) (c : OpClass) : Sound s (t.takeMount d c) :=
  (((h.beginRequest d .mounting .mount c).updRecord d _).requestProbe d c).schedule

theorem takeFlush (h : Sound s t) (d : DriveNo) (c : OpClass) : Sound s (t.takeFlush d c) :=
  ite (fun _ => h.setOutcome _ _) fun _ => (((h.beginRequest d .flushing .flush c).updRecord d _).writesFor _ _ _).schedule

theorem takeFreeze (h : Sound s t) (d : DriveNo) (c : OpClass) : Sound s (t.takeFreeze d c) :=
  ((h.beginRequest d .freezing .freeze c).writesFor _ _ _).schedule

theorem takeRelease (h : Sound s t) (d : DriveNo) (c : OpClass) : Sound s (t.takeRelease d c) :=
  ((h.beginRequest d .releasing .release c).writesFor _ _ _).schedule

theorem takeReclaim (h : Sound s t) (d : DriveNo) (c : OpClass) : Sound s (t.takeReclaim d c) :=
  ite (fun _ => h.setOutcome _ _) fun _ => ite (fun _ => h.setOutcome _ _) fun _ =>
    ((h.beginRequest d .reclaiming .reclaim c).requestProbe d c).schedule

theorem takeDiscard (h : Sound s t) (d : DriveNo) : Sound s (t.takeDiscard d) :=
  ite (fun _ => h.updRecord d _) fun _ => (h.discardNow d).schedule

theorem take (h : Sound s t) (d : DriveNo) (q : Request) (c : OpClass) : Sound s (t.take d q c) := by
  cases q with
  | mount => exact h.takeMount _ _
  | flush => exact h.takeFlush _ _
  | freeze => exact h.takeFreeze _ _
  | thaw => exact h.endRequest _ _ _
  | release => exact h.takeRelease _ _
  | reclaim => exact h.takeReclaim _ _
  | discard => exact h.takeDiscard _

theorem request (h : Sound s t) (d : DriveNo) (b : Byte) : Sound s (t.request d b) := by
  unfold State.request
  refine ite (fun _ => h) fun _ => ite (fun _ => h.setOutcome _ _) fun _ => ?_
  split
  · exact h.setOutcome _ _
  · refine ite (fun _ => h.setOutcome _ _) fun _ => ?_
    split
    · exact h.setOutcome _ _
    · exact h.take _ _ _

theorem promoteAll (h : Sound s t) : Sound s t.promoteAll :=
  h.tamer fun d => by
    rw [updAll_get]
    have key : ∀ o : Op, (match o.promotionDue t.settings.promotionMs with
        | some x => if x ≤ t.now.ms then o.promote t.now else o
        | none => o).work.slot? = o.work.slot? ∧ (match o.promotionDue t.settings.promotionMs with
        | some x => if x ≤ t.now.ms then o.promote t.now else o
        | none => o).phase = o.phase := fun o => by
      split
      · split <;> exact ⟨rfl, rfl⟩
      · exact ⟨rfl, rfl⟩
    exact .of_map (fun o => (key o).1) (fun o => by rw [(key o).2]; exact id) (fun o => by rw [(key o).2]; exact id) _

theorem unloadReached (h : Sound s t) : Sound s t.unloadReached :=
  h.tamer fun d => by
    rw [updAll_get]
    split
    · split <;> exact .refl _
    · exact .refl _

theorem idleReached (h : Sound s t) : Sound s t.idleReached :=
  h.tamer fun d => by
    rw [updAll_get]
    split
    · split <;> exact .refl _
    · exact .refl _

theorem ageReached (h : Sound s t) : Sound s t.ageReached :=
  (foldl (f := State.ageCheck) (fun u k => (refl u).ageCheck k) _ h).schedule

theorem putSetting (h : Sound s t) (i : Nat) (b : Byte) : Sound s (t.putSetting i b) := by
  unfold State.putSetting
  extract_lets s1
  have g : Sound s s1 := h.fields rfl rfl rfl rfl
  clear_value s1
  split
  · exact g.ageReached
  · exact g.waiters _
  · exact g.promoteAll
  · exact g.idleReached
  · exact g.unloadReached
  · exact g

theorem onByte {f : Byte → State → State} (hf : ∀ b u, Sound u (f b u)) (b : Option Byte) (h : Sound s t) :
    Sound s (Machine.onByte b f t) := by
  cases b with
  | none => exact h
  | some b => exact h.trans (hf b t)

theorem putRecordWord (h : Sound s t) (d : DriveNo) (o : Nat) (l : Lanes) : Sound s (t.putRecordWord d o l) := by
  refine ite (fun _ => ?_) fun _ => ite (fun _ => ite (fun _ => h.setOutcome _ _) fun _ => h) fun _ =>
    ite (fun _ => ?_) fun _ => h
  · exact onByte (fun b u => (refl u).request d b) _ (onByte (fun b u => (refl u).updRecord d _) _ h)
  · exact onByte (fun b u => (refl u).updRecord d _) _ (onByte (fun b u => (refl u).updRecord d _) _ h)

theorem putWord (h : Sound s t) (o : Nat) (l : Lanes) : Sound s (t.putWord o l) := by
  have hclass : ∀ (r : Requester) (b : Byte) (u : State), Sound u (u.putClass r b) := fun r b u =>
    ite (fun _ => refl u) fun _ => (refl u).fields rfl rfl rfl rfl
  refine ite (fun _ => h) fun _ => ite (fun _ => ?_) fun _ => ite (fun _ => h) fun _ => ite (fun _ => ?_) fun _ =>
    ite (fun _ => h) fun _ => ite (fun _ => h.putRecordWord _ _ _) fun _ => ite (fun _ => ?_) fun _ => h
  · exact onByte (fun b u => (refl u).putSetting _ b) _ (onByte (fun b u => (refl u).putSetting _ b) _ h)
  · exact onByte (fun b u => hclass _ b u) _ (onByte (fun b u => hclass _ b u) _ h)
  · exact ite (fun _ => h.fields rfl rfl rfl rfl) fun _ => h

/-! ### Track fields -/

theorem awaits (h : Sound s t) (p : Pass) (q : Option Nat) : Sound s (t.awaits p q) := h.pass _

theorem missedField (h : Sound s t) (p : Pass) : Sound s (t.missedField p) := by
  unfold State.missedField
  split
  · exact h
  · split
    · exact h.verifyResult _ _ _
    · exact h.awaits _ _

theorem beginSector (h : Sound s t) (p : Pass) (k : Nat) (key : Key) (g : Byte) (id : Nat) (size : Fin 4)
    (todo written : List Nat) (q : Nat) : Sound s (t.beginSector p k key g id size todo written q) := by
  unfold State.beginSector
  refine ite (fun ha => ?_) fun _ => ?_
  · exact (h.slot k (f := fun x => { x with active := some q })
      fun _ _ => ⟨Iff.rfl, rfl, fun _ => State.applies_state ha.1⟩).fields rfl rfl rfl rfl
  · exact ite (fun _ => (h.pass _).writeRoundEnd _) fun _ => h.pass _

theorem searchFound (h : Sound s t) (p : Pass) (a : Option (Fin 4)) (f : IdField) : Sound s (t.searchFound p a f) := by
  unfold State.searchFound
  extract_lets taken
  clear_value taken
  split
  · exact h.awaits _ _
  · exact h.probeEnd _ _

theorem matched (h : Sound s t) (p : Pass) (f : IdField) (q : Nat) : Sound s (t.matched p f q) := by
  unfold State.matched
  split
  · exact ite (fun _ => h.awaits _ _) fun _ => h
  · exact ite (fun _ => h.beginSector _ _ _ _ _ _ _ _ _) fun _ => h
  · exact ite (fun _ => h.awaits _ _) fun _ => h
  · exact h.searchFound _ _ _
  · exact h.awaits _ _
  · exact h

theorem idPasses (h : Sound s t) (p : Pass) (f : IdField) : Sound s (t.idPasses p f) := by
  unfold State.idPasses
  split
  · exact h
  · exact h
  · exact h.beginRecovery _
  · exact h.matched _ _ _

theorem idField (h : Sound s t) (f : IdField) : Sound s (t.idField f) := by
  unfold State.idField
  split
  · exact h
  · refine ite (fun _ => ?_) fun _ => h
    extract_lets s1
    have g : Sound s s1 := h.missedField _
    clear_value s1
    split
    · exact g.idPasses _ _
    · exact g

theorem arrives (h : Sound s t) (k : Nat) (key : Key) (g : Byte) (size : Fin 4) (q : Nat) (f : DataField) :
    Sound s (t.arrives k key g size q f) := by
  unfold State.arrives
  refine ite (fun _ => ?_) fun _ => h
  extract_lets s1
  have g1 : Sound s s1 := h.fields rfl rfl rfl rfl
  clear_value s1
  exact ite (fun _ => g1.setSector _ _ _) fun _ => g1

theorem fillField (h : Sound s t) (f : DataField) : Sound s (t.fillField f) := by
  unfold State.fillField
  split
  · exact h
  · split
    · refine ite (fun _ => h) fun _ => ite (fun _ => h.awaits _ _) fun _ => ite (fun _ => h) fun _ => ?_
      extract_lets p1 s1
      have g : Sound s s1 := (h.pass _).arrives _ _ _ _ _ _
      clear_value s1
      exact ite (fun _ => g) fun _ => g.fillEnd _
    · exact h

/-- A yield, of a slot that holds a track. -/
theorem yield (h : Sound s t) {d : DriveNo} {k : Nat} (hk : s.DirectorySound → (t.slot k).state ≠ .free) :
    Sound s (t.yield d k) := by
  unfold State.yield
  extract_lets s1 s2 x s3 s4
  have g1 : Sound s s1 := h.slot k fun g _ =>
    ⟨⟨fun e => (by cases e), fun e => absurd e (hk g)⟩, rfl, fun e => absurd rfl e⟩
  have g2 : Sound s s2 := g1.updOp _ _ (fun _ => rfl) (fun _ e => absurd rfl e) (fun _ e => (by cases e))
  have gx : Sound s x := g2.drive d fun _ => rfl
  have g3 : Sound s s3 := gx.pass _
  have g4 : Sound s s4 := g3.updRecord d _
  clear_value s4 s3 x s2 s1
  exact ite (fun _ => g4) fun _ => g4.releaseEvent _

theorem writeFieldEnds (h : Sound s t) : Sound s t.writeFieldEnds := by
  unfold State.writeFieldEnds
  split
  · exact h
  · split
    · split
      · exact h
      · rename_i k _ _ _ _ verify _ _ _ _ _ q hq
        extract_lets todo1 p1 s1
        have hstate : s.DirectorySound → (t.slot k).state = .writing := fun g =>
          (h.directory g).active k (by rw [hq]; exact fun e => by cases e)
        have g : Sound s s1 := Sound.slot (h.pass (some p1)) k (f := fun t => t.sectorEnds q verify)
          fun _ _ => ⟨Iff.rfl, rfl, fun e => absurd rfl e⟩
        have hsame : (s1.slot k).state = (t.slot k).state :=
          State.slot_updSlot_of (s := { t with pass := some p1 }) (P := fun x y => y.state = x.state) k rfl fun _ _ => rfl
        have hk : s.DirectorySound → (s1.slot k).state ≠ .free := fun g => by
          rw [hsame, hstate g]; exact fun e => by cases e
        clear_value s1
        exact ite (fun _ => g.discardNow _) fun _ => ite (fun _ => g.yield hk) fun _ =>
          ite (fun _ => g.writeRoundEnd _) fun _ => g.roundCheck _
    · exact h

theorem verifyField (h : Sound s t) (f : DataField) : Sound s (t.verifyField f) := by
  unfold State.verifyField
  split
  · exact h
  · split
    · exact ite (fun _ => h) fun _ => ite (fun _ => h.verifyResult _ _ _) fun _ => ite (fun _ => h) fun _ =>
        h.verifyResult _ _ _
    · exact h

theorem labelField (h : Sound s t) (f : DataField) : Sound s (t.labelField f) := by
  unfold State.labelField
  split
  · exact h
  · split
    · refine ite (fun _ => h) fun _ => ite (fun _ => h.awaits _ _) fun _ => ite (fun _ => h) fun _ => ?_
      extract_lets s1
      have g : Sound s s1 := h.fields rfl rfl rfl rfl
      clear_value s1
      exact ite (fun _ => g.probeEnd _ _) fun _ => g.awaits _ _
    · exact h

/-! ### Doors, pulses, expiries, resets -/

theorem reopenEnded (h : Sound s t) (d : DriveNo) : Sound s (t.reopenEnded d) := by
  unfold State.reopenEnded
  split
  · exact h.sectors _ _ _
  · exact h

end Sound

theorem State.reopenEnded_drives (s : State) (d : DriveNo) : (s.reopenEnded d).drives = s.drives := by
  unfold State.reopenEnded; split <;> rfl

theorem State.dropOps_queue (s : State) (d e : DriveNo) (q : Op → Bool) :
    (s.dropOps d q).drives[e].queue = if d = e then s.drives[d].queue.filter (fun o => !q o) else s.drives[e].queue := by
  have key : ∀ p : Option Pass, (s.dropOps d q).drives = (({ s.dropOps d q with pass := p } : State)).drives := fun _ => rfl
  have hd : (s.dropOps d q).drives = upd s.drives d (fun v =>
      { v with
        queue := v.queue.filter (fun o => !q o)
        move := if s.drives[d].queue.any (fun o => q o && o.isCurrent) then .idle else v.move
        moved := if s.drives[d].queue.any (fun o => q o && o.isCurrent) then false else v.moved }) := by
    unfold State.dropOps; dsimp only; split <;> rfl
  rw [hd, upd_get]
  split <;> rfl

/-- Where a drive held the channel, the channel is free once its operations have been dropped. -/
theorem State.channelFree_dropOps {s : State} (h : s.QueuesSound) {d : DriveNo}
    (hd : s.drives[d].queue.any (fun o => decide (o.phase = .transferring)) = true) :
    (s.dropOps d (fun _ => true)).ChannelFree := fun e o ho hp => by
  obtain ⟨-, hs⟩ := (State.queuesSound_iff s).mp h
  obtain ⟨x, hx, hxp⟩ := List.any_eq_true.mp hd
  have hpos : ∀ {e : DriveNo} {y : Op}, y ∈ s.drives[e].queue → y.phase = .transferring →
      1 ≤ (transferring s.drives[e].queue).length := fun hy hyp =>
    List.length_pos_of_mem (List.mem_filter.mpr ⟨hy, by simpa using hyp⟩)
  rw [State.dropOps_queue] at ho
  by_cases he : d = e
  · rw [if_pos he] at ho; simp at ho
  · rw [if_neg he] at ho
    have h2 : ∑ i ∈ {d, e}, (transferring s.drives[i].queue).length ≤ 1 :=
      (Finset.sum_le_univ_sum_of_nonneg fun _ => Nat.zero_le _).trans hs
    rw [Finset.sum_pair he] at h2
    have := hpos hx (by simpa using hxp)
    have := hpos ho hp
    omega

namespace Sound

variable {s t u : State}

theorem removal (h : Sound s t) (d : DriveNo) : Sound s (t.removal d) := by
  have hr := h.reopenEnded d
  have g := hr.dropOps d (fun _ => true)
  unfold State.removal
  extract_lets s1 chosen
  cases hx : chosen with
  | some x =>
    have hany : t.drives[d].queue.any (fun o => decide (o.phase = .transferring)) = true := by
      by_contra hn; simp only [chosen, if_neg hn] at hx; cases hx
    simp only [chosen, if_pos hany] at hx
    refine ((g.giveChannel (fun q => State.channelFree_dropOps (hr.queues q) ?_) (State.arbiterChoice_current hx)).removeDiskette
      d).startPass _ _
    rw [State.reopenEnded_drives]; exact hany
  | none => exact g.removeDiskette d

theorem doorOpens (h : Sound s t) (d : DriveNo) : Sound s (t.doorOpens d) := by
  unfold State.doorOpens
  extract_lets s1
  have g0 : Sound s (t.setDoor d false) := h.fields rfl rfl rfl rfl
  have g : Sound s s1 := g0.drive d fun _ => rfl
  clear_value s1
  exact (ite (fun _ => g) fun _ => g.removal _).schedule

theorem doorCloses (h : Sound s t) (d : DriveNo) : Sound s (t.doorCloses d) := by
  have g0 : Sound s (t.setDoor d true) := h.fields rfl rfl rfl rfl
  exact g0.drive d fun _ => rfl

theorem pulse (h : Sound s t) (d : DriveNo) : Sound s (t.pulse d) := by
  unfold State.pulse
  extract_lets s1
  have g : Sound s s1 := h.drive d fun _ => rfl
  clear_value s1
  refine Sound.schedule ?_
  split
  · exact ite (fun _ => g.passPulse _) fun _ => g
  · exact g

theorem spinUpEnds (h : Sound s t) (d : DriveNo) : Sound s (t.spinUpEnds d) := by
  unfold State.spinUpEnds
  extract_lets v s1 s2
  have g1 : Sound s s1 := h.drive d fun _ => rfl
  have g2 : Sound s s2 := h.drive d fun _ => rfl
  clear_value s1 s2
  exact ite (fun _ => ite (fun _ => g1.motorStage _) fun _ => g1) fun _ => ite (fun _ => g2.opFailed _ _) fun _ => g2

theorem resetVolume (h : Sound s t) (d : DriveNo) : Sound s (t.resetVolume d) := by
  unfold State.resetVolume
  split
  · exact h.unmount _
  all_goals exact h.updRecord d _

/-- The pending writes of all slots are removed. -/
theorem noPending (h : Sound s t) : Sound s { t with slots := t.slots.map (fun x => { x with pendingWrite := none }) } :=
  h.slots (List.length_map _) fun g k => by
    have hk : (t.slots.map (fun x => { x with pendingWrite := none })).getD k Slot.blank =
        { t.slot k with pendingWrite := none } := by
      unfold State.slot
      simp only [List.getD_eq_getElem?_getD, List.getElem?_map]
      cases t.slots[k]? <;> rfl
    rw [hk]
    exact ⟨Iff.rfl, rfl, (h.directory g).active k⟩

theorem resetDrops (h : Sound s t) : Sound s t.resetDrops := by
  unfold State.resetDrops
  exact (foldl (f := fun u d => u.dropOps d (fun o => !o.work.isWrite)) (fun u d => (refl u).dropOps d _) driveNos
    h).noPending.fillsStopped _

theorem busReset (h : Sound s t) : Sound s (((driveNos.foldl State.resetVolume t.resetFront).resetDrops.resetWrites).schedule) := by
  have g0 : Sound s t.resetFront := h.fields rfl rfl rfl rfl
  exact ((foldl (f := State.resetVolume) (fun u d => (refl u).resetVolume d) driveNos g0).resetDrops.writesFor _ _ _).schedule

/-! ### The end of an event and the commands -/

theorem finish (old : State) (h : Sound s t) : Sound s (old.finish t) := by
  rcases State.finish_cases old t with ⟨-, e⟩ | ⟨-, e⟩ <;> rw [e] <;> exact h.fields rfl rfl rfl rfl

theorem event {f : State → State} (hf : Sound t.bumped (f t.bumped)) : Sound t (t.event f) := by
  have g : Sound t t.bumped := (refl t).fields rfl rfl rfl rfl
  exact (g.trans hf).finish t

theorem landed (h : Sound s t) (o : Nat) (l : Lanes) : Sound s (t.landed o l) := by
  obtain ⟨m, e, -⟩ := t.landed_eq o l
  rw [e]; exact h.fields rfl rfl rfl rfl

theorem cbWrite (t : State) (o : Nat) (l : Lanes) (r : Requester) : Sound t (t.cbWrite o l r) := by
  unfold State.cbWrite
  refine ite (fun _ => event ?_) fun _ => (refl t).answered _
  exact (ite (fun _ => (refl _).putWord o l) fun _ => refl _ : Sound t.bumped (if r = 0 then t.bumped.putWord o l else t.bumped)).landed o l

theorem cbCycle (t : State) (o : Nat) (l : Lanes) (r : Requester) : Sound t (t.cbCycle o l r) :=
  ite (fun _ => cbWrite t o l r) fun _ => (refl t).answered _

theorem apertureCycle (t : State) (w : Nat) (low : Bool) (r : Requester) (l : Option Lanes) :
    Sound t (t.apertureCycle w low r l) := by
  unfold State.apertureCycle
  split
  · exact (refl t).answered _
  · exact ((refl t).setWaiter _ _).answered _
  · exact ((refl t).setWaiter _ _).answered _
  · exact event ((refl _).translate _ _ _ _)

theorem unpopulated (t : State) (b : Bool) (r : Requester) : Sound t (t.unpopulated b r) :=
  event ((refl _).fields rfl rfl rfl rfl)

theorem busCycle (t : State) (a : Address) (op : BusOp) (r : Requester) : Sound t (t.busCycle a op r) := by
  cases op with
  | read low high =>
    refine ite (fun _ => ?_) fun _ => (refl t).answered _
    split
    · exact (refl t).answered _
    · exact (refl t).answered _
    · exact unpopulated _ _ _
    · exact apertureCycle _ _ _ _ _
  | write l =>
    refine ite (fun _ => ?_) fun _ => (refl t).answered _
    split
    · exact (refl t).fields rfl rfl rfl rfl
    · exact cbWrite _ _ _ _
    · exact unpopulated _ _ _
    · exact apertureCycle _ _ _ _ _

theorem endWriting (h : Sound s t) (n : Nat) : Sound s (t.endWriting n) := by
  rw [State.endWriting_eq]; exact h.fields rfl rfl rfl rfl

end Sound

/-! ### Power-on reset -/

theorem State.initial_queue (lines : BitVec 9) (doors : BitVec 4) (pins : Pins) (mem : List Host.Cell) (now : Stamp)
    (pending : List Instr) (d : DriveNo) : (State.initial lines doors pins mem now pending).drives[d].queue = [] := by
  fin_cases d <;> rfl

theorem State.initial_slot (lines : BitVec 9) (doors : BitVec 4) (pins : Pins) (mem : List Host.Cell) (now : Stamp)
    (pending : List Instr) (k : Nat) : (State.initial lines doors pins mem now pending).slot k = Slot.blank := by
  show (List.replicate _ Slot.blank).getD k Slot.blank = _
  rw [List.getD_eq_getElem?_getD, List.getElem?_replicate]
  split <;> rfl

theorem State.queuesSound_of_empty {s : State} (h : ∀ d : DriveNo, s.drives[d].queue = []) : s.QueuesSound := by
  rw [State.queuesSound_iff]
  refine ⟨fun d => by rw [h d]; exact ⟨Nat.zero_le _, List.nodup_nil⟩, ?_⟩
  rw [Finset.sum_eq_zero fun d _ => by rw [h d]; rfl]
  exact Nat.zero_le _

/-- What power-on reset leaves is sound. -/
theorem State.initial_directorySound (lines : BitVec 9) (doors : BitVec 4) (pins : Pins) (mem : List Host.Cell) (now : Stamp)
    (pending : List Instr) : (State.initial lines doors pins mem now pending).DirectorySound := by
  have hs := State.initial_slot lines doors pins mem now pending
  have hl : (State.initial lines doors pins mem now pending).slots.length = (Straps.ofLines lines).slots :=
    List.length_replicate
  constructor
  · exact List.nodup_range
  · intro k
    rw [hs, hl]
    exact List.mem_range.trans (iff_self_and.mpr fun _ => rfl)
  · exact List.nodup_nil
  · intro k
    rw [hs]
    exact ⟨fun h => (by cases h), fun h => absurd rfl h.2⟩
  · intro k _
    rw [hs]
    exact ⟨fun _ => rfl, fun _ => rfl⟩
  · intro j _ _ _ _ h
    rw [hs] at h
    exact absurd rfl h
  · intro k h
    rw [hs] at h
    exact absurd rfl h

theorem Sound.powerOn (s : State) (lines : BitVec 9) (doors : BitVec 4) (pins : Pins) : Sound s (s.powerOn lines doors pins) where
  queues := fun _ => State.queuesSound_of_empty fun d => State.initial_queue lines doors pins _ _ _ d
  directory := fun _ =>
    ((Sound.refl (State.initial lines doors pins s.mem { s.now with seq := s.now.seq + 1 } s.pending)).fields
      (u := s.powerOn lines doors pins) rfl rfl rfl rfl).directory (State.initial_directorySound ..)

/-- Every command keeps the queues and the slot table sound. -/
theorem exec_sound (c : Instr) {s t : State} (h : exec c s = .next t) : Sound s t := by
  have k := Sound.refl s.bumped
  have r := Sound.refl s
  cases c with
  | noEnableCycle a d r' => cases h; exact r.answered _
  | ordinaryCycle a op r' => cases h; exact .busCycle _ _ _ _
  | unpopulatedCycle a op r' => cases h; exact .busCycle _ _ _ _
  | apertureRead a lo hi r' => cases h; exact .busCycle s a (.read lo hi) r'
  | apertureWrite a l r' => cases h; exact .busCycle s a (.write l) r'
  | mount | flush | freeze | thaw | release | reclaim | discard | unknownRequest | outcomeClear | faultRecordClear
  | settingsWrite | classTableWrite | writeAllowWrite | guardFieldWrite | guardLockWrite | controlBlockWrite =>
    cases h; exact .cbCycle _ _ _ _
  | powerOnReset l d p => cases h; exact .powerOn _ _ _ _
  | defaultWritingEnd =>
    cases h
    unfold State.defaultWritingEnds
    split
    · exact .event (k.endWriting _)
    · exact r
  | busReset => cases h; exact .ite (fun _ => .event k.busReset) fun _ => r
  | resetFlushRewriteEnd =>
    cases h
    unfold State.rewriteEnds
    split
    · exact .event (k.endWriting _)
    · exact r
  | doorOpen d p => cases h; exact .ite (fun _ => .event ((k.sense p).doorOpens d)) fun _ => r
  | doorClose d p => cases h; exact .ite (fun _ => .event ((k.sense p).doorCloses d)) fun _ => r
  | indexPulse d p => cases h; exact .ite (fun _ => .event ((k.sense p).pulse d)) fun _ => r
  | indexWatchExpiry d p =>
    cases h
    unfold State.watchExpires
    split
    · exact .event (((k.advance _).sense p).opFailed _ _).schedule
    · exact r
  | spinUpExpiry d p =>
    cases h
    unfold State.spinUpExpires
    split
    · exact .event (((k.advance _).sense p).spinUpEnds _).schedule
    · exact r
  | headUnloadExpiry d =>
    cases h
    unfold State.unloadExpires
    split
    · exact .event ((k.advance _).drive d fun _ => rfl)
    · exact r
  | motorIdleExpiry d =>
    cases h
    unfold State.idleExpires
    split
    · exact .event ((k.advance _).drive d fun _ => rfl)
    · exact r
  | waiterExpiry q =>
    cases h
    unfold State.waiterExpires
    split
    · exact .event ((k.advance _).setWaiter _ _)
    · exact r
  | promotion d slot =>
    cases h
    unfold State.promotes
    split
    · split
      · exact .event ((k.advance _).updOpSame _ _ fun _ => ⟨rfl, rfl⟩)
      · exact r
    · exact r
  | ageWriteBack n =>
    cases h
    unfold State.ages
    split
    · exact .event ((k.advance _).requestWrite _ _ _).schedule
    · exact r
  | stepComplete d p =>
    cases h
    split
    · exact .event (((k.advance _).sense p).stepDone _ _).schedule
    · exact r
  | settleEnd d p =>
    cases h
    split
    · exact .event (((k.advance _).sense p).settled _).schedule
    · exact r
  | idFieldRead f p => cases h; exact .event ((k.sense p).idField f).schedule
  | fillDataFieldRead f p => cases h; exact .event ((k.sense p).fillField f).schedule
  | writeFieldEnd p => cases h; exact .event ((k.sense p).writeFieldEnds).schedule
  | verifyDataFieldRead f p => cases h; exact .event ((k.sense p).verifyField f).schedule
  | labelDataFieldRead f p => cases h; exact .event ((k.sense p).labelField f).schedule

/-- The passing of time keeps the queues and the slot table sound. -/
theorem State.tick_sound (s : State) : Sound s s.tick := by
  rcases s.tick_cases with e | ⟨n, -, -, e⟩ | ⟨n, -, -, e⟩ <;> rw [e] <;> exact (Sound.refl s).fields rfl rfl rfl rfl

end Sys2Proof.Machine
end

section
/-! SUPPORT. The invariants that every step keeps: the tables, what DRAM shows of the part's copies, ordinary memory. -/

namespace Sys2Proof.Machine

/-! ### The tables -/

/-- DRAM in canonical form, a slot entry for each slot in force, and every range of the Settings, the classes and the host
fields kept. -/
structure State.TablesSound (s : State) : Prop where
  wf : Memory.wf s.mem
  sized : s.SlotsSized
  host : s.HostNotBarred
  settings : s.settings.InRange
  fields : s.HostInRange

theorem Settings.initial_inRange : Settings.initial.InRange := by unfold Settings.InRange; decide

/-- The classes' defaults leave requester 0 with a class (R150). -/
theorem defaultClasses_not_barred : classOfByte (Vector.replicate 8 (2 : Byte))[(0 : Requester)] ≠ none := by decide

theorem HostFields.initial_inRange : HostFields.initial.InRange := by unfold HostFields.InRange; decide

namespace State.TablesSound

variable {s t : State}

/-- A change of other fields. -/
theorem of_eq (h : s.TablesSound) (h0 : Memory.wf t.mem) (h1 : t.slots = s.slots) (h2 : t.straps = s.straps)
    (h3 : t.classes = s.classes) (h4 : t.settings = s.settings) (h5 : t.records = s.records) : t.TablesSound where
  wf := h0
  sized := by unfold State.SlotsSized; rw [h1, h2]; exact h.sized
  host := by unfold State.HostNotBarred State.classOf; rw [h3]; exact h.host
  settings := by rw [h4]; exact h.settings
  fields := by unfold State.HostInRange; rw [h5]; exact h.fields

theorem takes (h : s.TablesSound) (g : Takes s t) : t.TablesSound where
  wf := g.wf h.wf
  sized := by unfold State.SlotsSized; rw [g.slots, g.straps]; exact h.sized
  host := g.classes h.host
  settings := g.settings h.settings
  fields := g.host h.fields

theorem keeps (h : s.TablesSound) (g : Keeps s t) : t.TablesSound := h.takes g.takes

/-- The values of the rewrite are the power-on values, which are sound (R158). -/
theorem rewriteCopies (h : s.TablesSound) : s.rewriteCopies.TablesSound where
  wf := h.wf
  sized := h.sized
  host := defaultClasses_not_barred
  settings := Settings.initial_inRange
  fields := fun d => by
    unfold State.rewriteCopies
    rw [updAll_get]
    split
    · exact h.fields d
    · exact HostFields.initial_inRange

theorem finish (h : t.TablesSound) (old : State) : (old.finish t).TablesSound := by
  have g : (t.withMem (old.eventMem t)).TablesSound := 
    h.of_eq (by rw [State.withMem_mem]; exact State.eventMem_wf old h.wf) rfl rfl rfl rfl rfl
  rcases State.finish_cases old t with ⟨-, e⟩ | ⟨-, e⟩ <;> rw [e]
  · exact g
  · exact g.rewriteCopies

theorem initial {mem : List Host.Cell} (hm : Memory.wf mem) (lines : BitVec 9) (doors : BitVec 4) (pins : Pins) (now : Stamp)
    (pending : List Instr) : (State.initial lines doors pins mem now pending).TablesSound where
  wf := hm
  sized := List.length_replicate
  host := defaultClasses_not_barred
  settings := Settings.initial_inRange
  fields := fun d => by fin_cases d <;> exact HostFields.initial_inRange

theorem powerOn (h : s.TablesSound) (lines : BitVec 9) (doors : BitVec 4) (pins : Pins) :
    (s.powerOn lines doors pins).TablesSound :=
  (initial h.wf lines doors pins { s.now with seq := s.now.seq + 1 } s.pending).of_eq (Memory.wf_store h.wf _ _) rfl rfl rfl rfl rfl

theorem landed (h : s.TablesSound) (o : Nat) (l : Lanes) : (s.landed o l).TablesSound := by
  have land : ∀ {u : State}, u.TablesSound → ∀ o b, (u.landByte o b).TablesSound := fun hu o b =>
    hu.of_eq (Memory.wf_store hu.wf _ _) rfl rfl rfl rfl rfl
  have lane : ∀ {u : State} (b : Option Byte) (o : Nat), u.TablesSound →
      (onByte b (fun b u => u.landByte o b) u).TablesSound := fun b o hu => by
    cases b
    · exact hu
    · exact land hu _ _
  have g := lane l.hi (o + 1) (lane l.lo o h)
  exact g.of_eq g.wf rfl rfl rfl rfl rfl

theorem endWriting (h : s.TablesSound) (n : Nat) : (s.endWriting n).TablesSound := by
  rw [State.endWriting_eq]
  exact ⟨State.rangeMem_wf h.wf n cbEnd, h.sized, h.host, h.settings, h.fields⟩

/-- Every way in which a command changes the state keeps the tables sound. -/
theorem effect (h : s.TablesSound) {c : Instr} (he : Effect c s t) : t.TablesSound := by
  have hb : s.bumped.TablesSound := h.keeps (Keeps.bumped s)
  cases he with
  | same e => rw [e]; exact h
  | answer a e => rw [e]; exact h.of_eq h.wf rfl rfl rfl rfl rfl
  | held r _ e => rw [e]; exact h.of_eq h.wf rfl rfl rfl rfl rfl
  | dram a l _ _ e => rw [e]; exact h.of_eq (Memory.wf_storeLanes h.wf _ _) rfl rfl rfl rfl rfl
  | event u hk e => rw [e]; exact (h.keeps hk).finish s
  | host o l u _ _ hk e => rw [e]; exact ((h.takes hk).landed o l).finish s
  | powerOn lines doors pins _ e => rw [e]; exact h.powerOn lines doors pins
  | writing n _ e =>
    rw [e]; exact (hb.endWriting n).finish s
  | reset u _ hk e =>
    have g : s.bumped.resetFront.TablesSound := hb.of_eq hb.wf rfl rfl rfl rfl rfl
    rw [e]; exact (g.keeps hk).finish s

theorem tick (h : s.TablesSound) : s.tick.TablesSound := by
  have hl : s.later.TablesSound := h.of_eq h.wf rfl rfl rfl rfl rfl
  rcases s.tick_cases with e | ⟨n, -, -, e⟩ | ⟨n, -, -, e⟩ <;> rw [e]
  · exact hl
  · exact hl.of_eq (State.rangeMem_wf hl.wf _ _) rfl rfl rfl rfl rfl
  · exact hl.of_eq (State.rangeMem_wf hl.wf _ _) rfl rfl rfl rfl rfl

end State.TablesSound

/-- A step is a command on the state with the queue's rest, or the passing of time. -/
theorem step_cases {s t : State} (h : step s = .next t) :
    (∃ c rest, s.pending = c :: rest ∧ exec c { s with pending := rest } = .next t) ∨ (s.pending = [] ∧ t = s.tick) := by
  unfold step at h
  split at h
  · rename_i c rest hp; exact .inl ⟨c, rest, hp, h⟩
  · rename_i hp; cases h; exact .inr ⟨hp, rfl⟩

/-- Settles O57: the walk over the shared operations gives the queues and the slot table, the ways in which a command changes the
state give the rest. -/
theorem tablesStaySound : Obligations.TablesStaySound := by
  intro s t h
  rcases step_cases h with ⟨c, rest, -, hc⟩ | ⟨-, rfl⟩
  · have hs : Sound s { s with pending := rest } := (Sound.refl s).fields rfl rfl rfl rfl
    have ht := hs.trans (exec_sound c hc)
    refine ⟨ht.queues, ht.directory, fun h1 h2 h3 h4 h5 => ?_⟩
    have g : ({ s with pending := rest } : State).TablesSound := ⟨h1, h2, h3, h4, h5⟩
    obtain ⟨u, hu, he⟩ := exec_effect c { s with pending := rest }
    cases hc.symm.trans hu
    obtain ⟨k1, k2, k3, k4, k5⟩ := g.effect he
    exact ⟨k1, k2, k3, k4, k5⟩
  · refine ⟨s.tick_sound.queues, s.tick_sound.directory, fun h1 h2 h3 h4 h5 => ?_⟩
    obtain ⟨k1, k2, k3, k4, k5⟩ := State.TablesSound.tick ⟨h1, h2, h3, h4, h5⟩
    exact ⟨k1, k2, k3, k4, k5⟩

/-! ### What DRAM shows of the copies -/

theorem State.lt_cbEnd_of_cbByte {s : State} {o : Nat} {b : Byte} (h : s.cbByte o = some b) : o < cbEnd := by
  by_contra ho
  rw [s.cbByte_of_le (Nat.le_of_not_lt ho)] at h
  cases h

/-- The fields of the block lie below the slot pool. -/
theorem Straps.cb_lt_pool (p : Straps) {o : Nat} (h : o < cbEnd) : p.cbBase + o < p.poolBase := by
  have := p.cb_below_pool
  unfold cbEnd at h
  omega

/-- A byte that a read of the block gives after an event: what the event changed it stores, and what it did not was there. -/
theorem State.read_finish {s u : State} {o : Nat} {b : Byte} (hb : u.cbByte o = some b)
    (hm : s.cbByte o = some b → Memory.read u.mem (u.straps.cbBase + o) = b) :
    Memory.read (s.finish u).mem ((s.finish u).straps.cbBase + o) = b := by
  rw [State.finish_mem, State.finish_straps, State.read_eventMem, hb]
  split
  · rfl
  · rename_i hc
    exact hm ((State.cbByte_of_unchanged hc).trans hb)

/-- The layout version word is not among the copies that take the values of the rewrite. -/
theorem State.cbByte_rewriteCopies (s : State) {o : Nat} (ho : o < 2) : s.rewriteCopies.cbByte o = s.cbByte o := by
  unfold State.cbByte
  rw [if_pos (by omega), if_pos (by omega)]
  unfold State.headerByte
  interval_cases o <;> rfl

/-- The part's byte at an offset that a finished event shows is the byte that its effects gave: the drain's end, which changes
the copies besides, leaves the layout version word alone to be shown. -/
theorem State.cbByte_of_finish {s u : State} (hp : u.phase = s.phase ∨ u.phase = .draining ∨ u.phase = .running ∨ u.phase = .rewriting 2)
    {o : Nat} {b : Byte} (ho : o < (s.finish u).shownTo) (hb : (s.finish u).cbByte o = some b) : u.cbByte o = some b := by
  rcases State.finish_cases s u with ⟨-, e⟩ | ⟨hd, e⟩ <;> rw [e] at ho hb
  · rwa [State.cbByte_withMem] at hb
  · have hrw : u.phase = .rewriting 2 := by
      rcases hp with h | h | h | h
      · rw [drainEnded_of_phase h] at hd; cases hd
      · unfold drainEnded at hd; rw [h] at hd; cases hd
      · unfold drainEnded at hd; rw [h] at hd; cases hd
      · exact h
    have ho2 : o < 2 := by
      unfold State.shownTo State.rewriteCopies at ho
      rw [show ({ u.withMem (s.eventMem u) with } : State).phase = .rewriting 2 from hrw] at ho
      exact ho
    rwa [State.cbByte_rewriteCopies _ ho2, State.cbByte_withMem] at hb

namespace State.CopiesShown

variable {s t u : State}

/-- What is shown reaches no further than the fields. -/
theorem read (h : s.CopiesShown) {o : Nat} {b : Byte} (hs : o < s.shownTo) (hb : s.cbByte o = some b) :
    Memory.read s.mem (s.straps.cbBase + o) = b := h o b hs hb

/-- Fields that the block does not show have changed. -/
theorem of_eq (h : s.CopiesShown) (hc : ∀ o, t.cbByte o = s.cbByte o) (hp : t.phase = s.phase) (hs : t.straps = s.straps)
    (hm : ∀ o, o < cbEnd → Memory.read t.mem (s.straps.cbBase + o) = Memory.read s.mem (s.straps.cbBase + o)) :
    t.CopiesShown := fun o b ho hb => by
  rw [hc] at hb
  rw [hs, hm o (State.lt_cbEnd_of_cbByte hb)]
  refine h o b ?_ hb
  unfold State.shownTo at ho ⊢
  rwa [hp] at ho

/-- An event whose effects leave DRAM below the pool: the changed fields are stored. -/
theorem finish (h : s.CopiesShown) (hs : u.straps = s.straps)
    (hm : ∀ a, a < s.straps.poolBase → Memory.read u.mem a = Memory.read s.mem a)
    (hp : u.phase = s.phase ∨ (s.shownTo = cbEnd ∧ (u.phase = .draining ∨ u.phase = .running ∨ u.phase = .rewriting 2))) :
    (s.finish u).CopiesShown := fun o b ho hb => by
  have hu := State.cbByte_of_finish (hp.imp id And.right) ho hb
  have hlt := State.lt_cbEnd_of_cbByte hu
  refine State.read_finish hu fun hsb => ?_
  rw [hs, hm _ (s.straps.cb_lt_pool hlt)]
  refine h o b ?_ hsb
  rcases hp with e | ⟨e, -⟩
  · unfold State.shownTo at ho ⊢
    rwa [State.finish_phase, e] at ho
  · rw [e]; exact hlt

theorem shownTo_running (h : s.phase = .running) : s.shownTo = cbEnd := by unfold State.shownTo; rw [h]

theorem shownTo_draining (h : s.phase = .draining) : s.shownTo = cbEnd := by unfold State.shownTo; rw [h]

/-- A Control Block write: each written byte lands as the part's byte. -/
theorem finish_landed (h : s.CopiesShown) (hw : s.phase = .running) (hk : Takes s u) (o : Nat) (l : Lanes) :
    (s.finish (u.landed o l)).CopiesShown := fun x b hx hb => by
  obtain ⟨m, e, hout, hlo, hhi⟩ := u.landed_eq o l
  rw [e] at hx hb ⊢
  have hup : u.phase = .running := by
    rcases hk.phase with g | ⟨g, -⟩
    · exact g.trans hw
    · rw [hw] at g; cases g
  have hu := State.cbByte_of_finish (u := { u with mem := m, answer := some (.done none) }) (.inr (.inr (.inl hup))) hx hb
  have hc : ({ u with mem := m, answer := some (.done none) } : State).cbByte x = u.cbByte x := by
    apply State.cbByte_congr <;> rfl
  have hub : u.cbByte x = some b := hc.symm.trans hu
  have hlt := State.lt_cbEnd_of_cbByte hub
  refine State.read_finish hu fun hsb => ?_
  have hold : Memory.read u.mem (u.straps.cbBase + x) = b := by
    rw [hk.straps, hk.low _ (s.straps.cb_lt_pool hlt)]
    exact h x b (by rw [shownTo_running hw]; exact hlt) hsb
  show Memory.read m (u.straps.cbBase + x) = b
  by_cases h0 : x = o
  · subst h0
    rw [hlo]
    cases l.lo with
    | none => exact hold
    | some c => dsimp only; rw [hub]; rfl
  · by_cases h1 : x = o + 1
    · subst h1
      rw [← Nat.add_assoc, hhi]
      cases l.hi with
      | none => exact hold
      | some c => dsimp only; rw [hub]; rfl
    · rw [hout _ (by omega) (by omega)]; exact hold

/-- The end of a writing: the rest of the block is stored, then the layout version word. -/
theorem finish_endWriting (h : s.CopiesShown) {n : Nat} (hn : s.phase = .defaultWriting n ∨ s.phase = .rewriting n) :
    (s.finish (s.bumped.endWriting n)).CopiesShown := fun o b ho hb => by
  have hshown : s.shownTo = n := by unfold State.shownTo; rcases hn with e | e <;> rw [e]
  rw [State.endWriting_eq] at ho hb ⊢
  have hu := State.cbByte_of_finish (.inr (.inr (.inl rfl))) ho hb
  refine State.read_finish hu fun hsb => ?_
  have hlt := State.lt_cbEnd_of_cbByte hsb
  show Memory.read (s.bumped.rangeMem n cbEnd) (s.bumped.straps.cbBase + o) = b
  rw [State.read_rangeMem, State.bumped_cbByte, hsb]
  split
  · rfl
  · exact h o b (by rw [hshown]; omega) hsb

/-- A power-on reset: of the block the layout version word alone is shown, and it has been stored as 0. -/
theorem powerOn (s : State) (lines : BitVec 9) (doors : BitVec 4) (pins : Pins) : (s.powerOn lines doors pins).CopiesShown := by
  intro o b ho hb
  have ho : o < 2 := ho
  have hb0 : b = 0 := by
    interval_cases o
    · exact (Option.some.inj hb).symm.trans (by decide : loByte (0 : Word) = 0)
    · exact (Option.some.inj hb).symm.trans (by decide : hiByte (0 : Word) = 0)
  show Memory.read (Memory.store s.mem (Straps.ofLines lines).cbBase [0, 0]) ((Straps.ofLines lines).cbBase + o) = b
  rw [Memory.read_store, if_pos ⟨by omega, by simpa using ho⟩, Nat.add_sub_cancel_left, hb0]
  interval_cases o <;> rfl

/-- Every way in which a command changes the state keeps DRAM showing the copies. -/
theorem effect (h : s.CopiesShown) {c : Instr} (he : Effect c s t) : t.CopiesShown := by
  cases he with
  | same e => rw [e]; exact h
  | answer a e => rw [e]; exact h.of_eq (State.cbByte_congr rfl rfl rfl rfl rfl rfl rfl rfl) rfl rfl fun _ _ => rfl
  | held r _ e => rw [e]; exact h.of_eq (State.cbByte_congr rfl rfl rfl rfl rfl rfl rfl rfl) rfl rfl fun _ _ => rfl
  | dram a l hc _ e =>
    rw [e]
    refine h.of_eq (State.cbByte_congr rfl rfl rfl rfl rfl rfl rfl rfl) rfl rfl fun o ho => ?_
    have hout : ¬ (s.straps.cbBase ≤ wordAddress a ∧ wordAddress a < s.straps.cbBase + 512) := fun hin => by
      unfold Straps.classify at hc
      split at hc
      · cases hc
      · split at hc
        · cases hc
        · cases hc
    have heven : s.straps.cbBase % 2 = 0 ∧ wordAddress a % 2 = 0 := by
      unfold Straps.cbBase wordAddress; constructor <;> omega
    unfold cbEnd at ho
    show Memory.read (Memory.storeLanes s.mem (wordAddress a) l) _ = _
    rw [Memory.read_storeLanes, if_neg (by omega), if_neg (by omega)]
  | event u hk e =>
    rw [e]
    exact h.finish hk.straps hk.low (hk.phase.imp id fun g => ⟨shownTo_draining g.1, .inr (.inr g.2)⟩)
  | host o l u _ hw hk e => rw [e]; exact h.finish_landed hw hk o l
  | powerOn lines doors pins _ e => rw [e]; exact powerOn s lines doors pins
  | writing n hp e => rw [e]; exact h.finish_endWriting hp
  | reset u hp hk e =>
    rw [e]
    exact h.finish hk.straps hk.low (.inr ⟨shownTo_running hp, hk.phase.imp id fun g => .inr g.2⟩)

/-- One more word of a writing is shown. -/
theorem wordStored (h : s.CopiesShown) {n : Nat} {p : Phase} (hn : s.shownTo = n)
    (hp : p = .defaultWriting (n + 2) ∨ p = .rewriting (n + 2)) :
    ({ s.later with mem := s.later.rangeMem n (n + 2), phase := p } : State).CopiesShown := fun o b ho hb => by
  have ho : o < n + 2 := by unfold State.shownTo at ho; rcases hp with e | e <;> subst e <;> exact ho
  have hlater : s.later.cbByte o = s.cbByte o := by apply State.cbByte_congr <;> rfl
  have hword : ({ s.later with mem := s.later.rangeMem n (n + 2), phase := p } : State).cbByte o = s.later.cbByte o := by
    apply State.cbByte_congr <;> rfl
  have hl : s.later.cbByte o = some b := hword.symm.trans hb
  have hsb : s.cbByte o = some b := hlater.symm.trans hl
  show Memory.read (s.later.rangeMem n (n + 2)) (s.later.straps.cbBase + o) = b
  rw [State.read_rangeMem, hl]
  split
  · rfl
  · exact h o b (by omega) hsb

theorem tick (h : s.CopiesShown) : s.tick.CopiesShown := by
  rcases s.tick_cases with e | ⟨n, -, hp, e⟩ | ⟨n, -, hp, e⟩ <;> rw [e]
  · exact h.of_eq (State.cbByte_congr rfl rfl rfl rfl rfl rfl rfl rfl) rfl rfl fun _ _ => rfl
  · exact h.wordStored (by unfold State.shownTo; rw [hp]) (.inl rfl)
  · exact h.wordStored (by unfold State.shownTo; rw [hp]) (.inr rfl)

end State.CopiesShown

/-- Settles O58: each way in which a command changes the state, and each tick, stores what it changes of the copies. -/
theorem controlBlockShowsCopies : Obligations.ControlBlockShowsCopies := by
  intro s t h hs
  rcases step_cases h with ⟨c, rest, -, hc⟩ | ⟨-, rfl⟩
  · obtain ⟨u, hu, he⟩ := exec_effect c { s with pending := rest }
    cases hc.symm.trans hu
    have g : ({ s with pending := rest } : State).CopiesShown :=
      hs.of_eq (State.cbByte_congr rfl rfl rfl rfl rfl rfl rfl rfl) rfl rfl fun _ _ => rfl
    exact g.effect he
  · exact hs.tick

/-! ### Ordinary memory -/

/-- The stores of an event stay in the Control Block. -/
theorem State.read_finish_outside {s u : State} (hs : u.straps = s.straps) {a : Nat} (ha : ¬ s.inControlBlock a) :
    Memory.read (s.finish u).mem a = Memory.read u.mem a := by
  rw [State.finish_mem, State.read_eventMem_outside]
  rw [hs]
  unfold cbEnd
  omega

/-- Settles O59: of the ways in which a command changes the state, an ordinary write and a power-on reset alone reach memory
below the pool outside the Control Block. -/
theorem ordinaryMemoryUntouched : Obligations.OrdinaryMemoryUntouched := by
  intro c s t h hord hunp hap hon a ha hcb
  obtain ⟨u, hu, he⟩ := exec_effect c s
  cases h.symm.trans hu
  cases he with
  | same e => rw [e]
  | answer b e => rw [e]; rfl
  | held r _ e => rw [e]; rfl
  | dram w l _ hi e =>
    rcases hi with ⟨_, _, _, e⟩ | ⟨_, _, _, e⟩ | ⟨_, _, _, e⟩
    · exact absurd e (hord _ _ _)
    · exact absurd e (hunp _ _ _)
    · exact absurd e (hap _ _ _)
  | event v hk e => rw [e, State.read_finish_outside hk.straps hcb, hk.low a ha]
  | host o l v ho hw hk e =>
    obtain ⟨m, el, hout, -⟩ := v.landed_eq o l
    rw [e, State.read_finish_outside ((v.landed_straps o l).trans hk.straps) hcb, el]
    show Memory.read m a = _
    rw [hout a (by rw [hk.straps]; omega) (by rw [hk.straps]; omega), hk.low a ha]
  | powerOn lines doors pins e _ => exact absurd e (hon _ _ _)
  | writing n _ e =>
    rw [e, State.read_finish_outside (s := s) (u := s.bumped.endWriting n) (State.endWriting_straps _ _) hcb, State.endWriting_eq]
    refine State.read_rangeMem_outside s.bumped n cbEnd a ?_
    show a < s.straps.cbBase ∨ s.straps.cbBase + cbEnd ≤ a
    unfold cbEnd
    omega
  | reset v _ hk e => rw [e, State.read_finish_outside (s := s) hk.straps hcb]; exact hk.low a ha

/-- Settles O60: power-on reset leaves every table at values that are sound, and of the block the layout version word is shown. -/
theorem resetIsSound : Obligations.ResetIsSound := by
  obtain ⟨h1, h2, h3, h4, h5⟩ : State.reset.TablesSound := .initial ⟨List.Pairwise.nil, nofun⟩ _ _ _ _ _
  refine ⟨h1, h2, h3, h4, h5, fun o b ho hb => ?_, State.queuesSound_of_empty fun d => State.initial_queue _ _ _ _ _ _ d,
    State.initial_directorySound _ _ _ _ _ _⟩
  have ho : o < 2 := ho
  interval_cases o <;> cases hb <;> rfl

end Sys2Proof.Machine
end

section
/-! SUPPORT. The passing of time, the ends of the writings, power-on reset, the bus cycles by class and the checks on an aperture
access. -/

namespace Sys2Proof.Machine

/-! ### The step and the passing of time -/

/-- Settles O1: the step takes the command and leaves the queue's rest. -/
theorem frontCommandRuns : Obligations.FrontCommandRuns := fun _ _ => rfl

/-- What a read gives after a run of offsets has been stored, at any address. -/
theorem State.read_rangeMem_at (s : State) (a b x : Nat) :
    Memory.read (s.rangeMem a b) x =
      if s.straps.cbBase + a ≤ x ∧ x < s.straps.cbBase + b then (s.cbByte (x - s.straps.cbBase)).getD (Memory.read s.mem x)
      else Memory.read s.mem x := by
  by_cases hx : s.straps.cbBase ≤ x
  · obtain ⟨o, rfl⟩ := Nat.exists_eq_add_of_le hx
    rw [State.read_rangeMem, Nat.add_sub_cancel_left]
    simp only [Nat.add_le_add_iff_left, Nat.add_lt_add_iff_left]
  · rw [State.read_rangeMem_outside _ _ _ _ (.inl (Nat.lt_of_not_le hx)), if_neg (by omega)]

theorem State.later_cbByte (s : State) (o : Nat) : s.later.cbByte o = s.cbByte o := by apply State.cbByte_congr <;> rfl

/-- A tick of a default writing that has not come to the end of the fields. -/
theorem State.tick_defaultWriting {s : State} {n : Nat} (hp : s.phase = .defaultWriting n) (hn : n < cbEnd) :
    s.tick = { s.later with mem := s.later.rangeMem n (n + 2), phase := .defaultWriting (n + 2) } := by
  rcases s.tick_cases with e | ⟨m, -, hm, e⟩ | ⟨m, -, hm, e⟩
  · have hphase : s.tick.phase = .defaultWriting (n + 2) := by unfold State.tick; simp only [hp, if_pos hn]
    rw [e] at hphase
    exact absurd (hp.symm.trans hphase) (by simp)
  · rw [hp] at hm; cases hm; exact e
  · rw [hp] at hm; cases hm

theorem State.tick_rewriting {s : State} {n : Nat} (hp : s.phase = .rewriting n) (hn : n < cbEnd) :
    s.tick = { s.later with mem := s.later.rangeMem n (n + 2), phase := .rewriting (n + 2) } := by
  rcases s.tick_cases with e | ⟨m, -, hm, e⟩ | ⟨m, -, hm, e⟩
  · have hphase : s.tick.phase = .rewriting (n + 2) := by unfold State.tick; simp only [hp, if_pos hn]
    rw [e] at hphase
    exact absurd (hp.symm.trans hphase) (by simp)
  · rw [hp] at hm; cases hm
  · rw [hp] at hm; cases hm; exact e

/-- Settles O2: a tick by the phase. -/
theorem emptyQueuePassesTime : Obligations.EmptyQueuePassesTime := by
  intro s hs
  have hstep : step s = .next s.tick := by unfold step; rw [hs]
  refine ⟨fun hp => ?_, fun n hn hp => ?_⟩
  · rw [hstep]
    unfold State.tick
    rcases hp with e | e <;> rw [e]
  · have hword : ∀ a, Memory.read (s.later.rangeMem n (n + 2)) a =
        if a = s.straps.cbBase + n ∨ a = s.straps.cbBase + n + 1
        then (s.cbByte (a - s.straps.cbBase)).getD (Memory.read s.mem a) else Memory.read s.mem a := fun a => by
      rw [State.read_rangeMem_at, State.later_cbByte]
      refine if_congr ?_ rfl rfl
      show s.straps.cbBase + n ≤ a ∧ a < s.straps.cbBase + (n + 2) ↔ _
      omega
    rcases hp with e | e
    · refine ⟨_, hstep, ?_⟩
      rw [State.tick_defaultWriting e hn]
      exact ⟨rfl, fun _ => rfl, fun h => (by rw [e] at h; cases h), hword⟩
    · refine ⟨_, hstep, ?_⟩
      rw [State.tick_rewriting e hn]
      exact ⟨rfl, fun h => (by rw [e] at h; cases h), fun _ => rfl, hword⟩

/-! ### Reset -/

/-- Settles O3: the starting values, field by field. -/
theorem resetLeavesStartingState : Obligations.ResetLeavesStartingState := by
  refine ⟨rfl, rfl, fun r => ?_, rfl, fun t ht => ?_, rfl, rfl, fun d => ?_, fun d => ?_, rfl, rfl, fun d => ?_, fun i => ?_, rfl,
    fun r => ?_⟩
  · fin_cases r <;> rfl
  · rw [List.eq_of_mem_replicate ht]
    exact ⟨rfl, rfl, rfl, rfl, rfl, rfl, rfl, rfl, rfl⟩
  · fin_cases d <;> rfl
  · fin_cases d <;> exact ⟨rfl, rfl, rfl, rfl, rfl, rfl, rfl, rfl, rfl, rfl⟩
  · fin_cases d <;> exact ⟨rfl, rfl, rfl, rfl, rfl, rfl, rfl, rfl, rfl, rfl, rfl, rfl, rfl, rfl, rfl⟩
  · fin_cases i <;> rfl
  · fin_cases r <;> rfl

/-- A drive at power-on reset by its number. -/
theorem State.initial_drive (lines : BitVec 9) (doors : BitVec 4) (pins : Pins) (mem : List Host.Cell) (now : Stamp)
    (pending : List Instr) (d : DriveNo) : (State.initial lines doors pins mem now pending).drives[d] =
      Drive.initial (decide (d.val < (Straps.ofLines lines).drives)) (doors.getLsbD d.val) (pins.wprot.getLsbD d.val) := by
  fin_cases d
  · have h : decide (0 < (Straps.ofLines lines).drives) = true := decide_eq_true (Nat.succ_pos _)
    show Drive.initial true _ _ = Drive.initial (decide (0 < (Straps.ofLines lines).drives)) _ _
    rw [h]
  all_goals rfl

/-- Settles O4: what power-on reset leaves, field by field, and the one word it stores. -/
theorem powerOnResetBegins : Obligations.PowerOnResetBegins := by
  intro lines doors pins s
  refine ⟨_, exec_powerOnReset lines doors pins s, rfl, rfl, rfl, rfl, ⟨rfl, rfl, rfl, rfl, rfl⟩, rfl, rfl, rfl, fun r => ?_,
    fun d => ?_, rfl, rfl, fun d => ?_, fun d => ?_, fun i => ?_, rfl, fun r => ?_, rfl, rfl, fun a => ?_⟩
  · fin_cases r <;> rfl
  · fin_cases d <;> rfl
  · have hd : (s.powerOn lines doors pins).drives[d] = _ := State.initial_drive lines doors pins s.mem
      { s.now with seq := s.now.seq + 1 } s.pending d
    rw [hd]
    refine ⟨rfl, rfl, rfl, rfl, rfl, rfl, rfl, rfl, rfl, rfl, ?_, ?_⟩
    · unfold Drive.initial Media.ofDoor
      simp only [Bool.and_eq_true, decide_eq_true_eq]
      rfl
    · unfold Drive.initial
      simp only [Bool.and_eq_true, decide_eq_true_eq, and_assoc]
      rfl
  · fin_cases d <;> rfl
  · fin_cases i <;> rfl
  · fin_cases r <;> rfl
  · show Memory.read (Memory.store s.mem (Straps.ofLines lines).cbBase [0, 0]) a =
      if a = (Straps.ofLines lines).cbBase ∨ a = (Straps.ofLines lines).cbBase + 1 then 0 else Memory.read s.mem a
    rw [Memory.read_store]
    generalize (Straps.ofLines lines).cbBase = base
    by_cases h : a = base ∨ a = base + 1
    · rw [if_pos h, if_pos (by simp only [List.length_cons, List.length_nil]; omega)]
      rcases h with rfl | rfl
      · rw [Nat.sub_self]; rfl
      · rw [Nat.add_sub_cancel_left]; rfl
    · rw [if_neg h, if_neg (by simp only [List.length_cons, List.length_nil]; omega)]

/-- The end of a writing as an event, whichever writing it is. -/
theorem State.finish_endWriting_eq (s : State) (n : Nat) :
    s.finish (s.bumped.endWriting n) = { s with
      now := s.eventStamp
      phase := .running
      layoutVersion := 1
      waiters := updAll s.waiters WaiterEntry.released
      mem := (s.finish (s.bumped.endWriting n)).mem } := by
  have hd : drainEnded s (s.bumped.endWriting n) = false := rfl
  have h := State.eq_withMem (State.finish_withMem hd)
  rw [h, State.endWriting_eq]
  rfl

/-- Settles O5: the writing's end stores the rest of the block from the next offset on, then what it changes itself. -/
theorem writingEndResumesWatching : Obligations.WritingEndResumesWatching := by
  intro s n hp
  refine ⟨s.finish (s.bumped.endWriting n), ?_, State.finish_endWriting_eq s n, fun a ha => ?_, fun o b ho hb => ?_⟩
  · rcases hp with e | e <;> simp only [e]
    · rw [exec_defaultWritingEnd]; unfold State.defaultWritingEnds; rw [e]; rfl
    · rw [exec_resetFlushRewriteEnd]; unfold State.rewriteEnds; rw [e]; rfl
  · rw [State.read_finish_outside (s := s) (u := s.bumped.endWriting n) (State.endWriting_straps _ _) ha, State.endWriting_eq]
    refine State.read_rangeMem_outside s.bumped n cbEnd a ?_
    show a < s.straps.cbBase ∨ s.straps.cbBase + cbEnd ≤ a
    unfold cbEnd
    omega
  · have hfin : ∀ x, (s.finish (s.bumped.endWriting n)).cbByte x = (s.bumped.endWriting n).cbByte x := fun x => by
      rw [State.finish_withMem (s := s) (u := s.bumped.endWriting n) rfl, State.cbByte_withMem]
    rw [hfin] at hb ho
    have hlt := State.lt_cbEnd_of_cbByte hb
    refine State.read_finish hb fun hsb => ?_
    have hn : n ≤ o := ho.resolve_right fun h => h (hsb.trans hb.symm)
    rw [State.endWriting_eq]
    show Memory.read (s.bumped.rangeMem n cbEnd) (s.bumped.straps.cbBase + o) = b
    rw [State.read_rangeMem, State.bumped_cbByte, hsb, if_pos ⟨hn, hlt⟩]
    rfl

/-- Settles O8: a bus reset is taken while watching runs alone. -/
theorem busResetDuringResetHasNoEffect : Obligations.BusResetDuringResetHasNoEffect := by
  intro s
  have hno : s.phase ≠ .running → exec .busReset s = .next s := fun h => by
    rw [exec_busReset]
    unfold State.busReset State.watching
    rw [if_neg (by simpa using h)]
  refine ⟨fun hp => hno ?_, fun n hp => ⟨hno (by rw [hp]; exact fun e => by cases e), s.finish (s.bumped.endWriting n), ?_, ?_, ?_⟩⟩
  · rcases hp with e | ⟨n, e⟩ <;> rw [e] <;> exact fun e => by cases e
  · rw [exec_defaultWritingEnd]; unfold State.defaultWritingEnds; rw [hp]; rfl
  · rw [State.finish_endWriting_eq]
  · rw [State.finish_endWriting_eq]

/-! ### Bus cycles -/

/-- Settles O9: the cycle is not classified. -/
theorem noEnableCycleAnswersDone : Obligations.NoEnableCycleAnswersDone := fun _ _ _ _ => rfl

/-- Settles O11: the class of the address leads the cycle to DRAM. -/
theorem ordinaryCycleReachesDram : Obligations.OrdinaryCycleReachesDram := by
  refine fun a r s => ⟨fun hc low high hb => ?_, fun hc l hl => ⟨s.dramWrite (wordAddress a) l, ?_, rfl, fun x => ?_⟩⟩
  · rw [exec_ordinaryCycle, State.busCycle_read]
    unfold State.readCycle
    rw [if_pos hb]
    rcases hc with e | e <;> rw [e] <;> rfl
  · rw [exec_ordinaryCycle, State.busCycle_write]
    unfold State.writeCycle
    rw [if_pos hl, hc]
  · exact Memory.read_storeLanes ..

/-- Settles O12: the event reports to the global record and stores what it changes. -/
theorem unpopulatedCycleReported : Obligations.UnpopulatedCycleReported := by
  intro a op r s hop hc
  have he : ∀ w : Bool, ∃ t, s.unpopulated w r = t ∧ t = { s with
        now := s.eventStamp
        faults := upd s.faults 4 (fun f => f.take
          { code := .unpopulated, requester := some r, cylinder := none, head := none, sectorId := none })
        answer := some (doneAnswer w allOnes)
        mem := t.mem } ∧ s.Stores t := fun w => State.event_stores rfl rfl rfl rfl
  cases op with
  | read low high =>
    obtain ⟨t, ht, hs⟩ := he false
    refine ⟨t, ?_, hs⟩
    rw [exec_unpopulatedCycle, State.busCycle_read, ← ht]
    unfold State.readCycle
    rw [if_pos (show (low || high) = true from hop), hc]
  | write l =>
    obtain ⟨t, ht, hs⟩ := he true
    refine ⟨t, ?_, hs⟩
    rw [exec_unpopulatedCycle, State.busCycle_write, ← ht]
    unfold State.writeCycle
    rw [if_pos (show l.enabled = true from hop), hc]

theorem State.apertureCycle_defaultWriting {s : State} {n : Nat} (h : s.phase = .defaultWriting n) (w : Nat) (low : Bool)
    (r : Requester) (l : Option Lanes) : s.apertureCycle w low r l = s.answered .retry := by
  unfold State.apertureCycle; rw [h]

theorem State.apertureCycle_resetFlush {s : State} (h : s.phase = .draining ∨ ∃ n, s.phase = .rewriting n) (w : Nat) (low : Bool)
    (r : Requester) (l : Option Lanes) : s.apertureCycle w low r l = (s.setWaiter r .resetHold).answered .retry := by
  unfold State.apertureCycle
  rcases h with e | ⟨n, e⟩ <;> rw [e]

/-- Settles O13: an aperture cycle by the phase. -/
theorem apertureHeldOffDuringReset : Obligations.ApertureHeldOffDuringReset := by
  intro addr low high l r s ha hb hl
  rw [exec_apertureRead, exec_apertureWrite, State.readCycle_aperture hb ha, State.writeCycle_aperture hl ha]
  refine ⟨fun n hp => ?_, fun hp => ?_⟩
  · rw [State.apertureCycle_defaultWriting hp, State.apertureCycle_defaultWriting hp]; exact ⟨rfl, rfl⟩
  · rw [State.apertureCycle_resetFlush hp, State.apertureCycle_resetFlush hp]; exact ⟨rfl, rfl⟩

/-- Some entry of a table satisfies a condition exactly when one of its places does. -/
theorem exists_mem_vector_iff {α : Type} {n : Nat} (v : Vector α n) (q : α → Prop) :
    (∃ x, x ∈ v ∧ q x) ↔ ∃ i : Fin n, q v[i] := by
  constructor
  · rintro ⟨x, hx, hq⟩
    obtain ⟨i, hi, rfl⟩ := Vector.mem_iff_getElem.mp hx
    exact ⟨⟨i, hi⟩, hq⟩
  · rintro ⟨i, hq⟩
    exact ⟨v[i], Vector.getElem_mem i.isLt, hq⟩

/-- Settles O56: the line is the disjunction over the tables. -/
theorem attentionFollowsOutcomesAndFaults : Obligations.AttentionFollowsOutcomesAndFaults := by
  intro s
  unfold State.attention
  simp only [Bool.or_eq_true, List.any_eq_true, Vector.mem_toList_iff, decide_eq_true_eq]
  exact or_congr (exists_mem_vector_iff s.records (fun r => r.outcome ≠ .none)) (exists_mem_vector_iff s.faults (fun f => f.code ≠ .none))

/-! ### The checks on an aperture access -/

/-- A drive that serves a volume, part by part (R28). -/
theorem State.servesVolume_iff (s : State) (d : DriveNo) :
    s.servesVolume d = true ↔ d.val < s.straps.drives ∧ s.volume d ≠ .unmounted ∧ s.volume d ≠ .mounting := by
  unfold State.servesVolume
  simp only [Bool.and_eq_true, decide_eq_true_eq, and_assoc]

/-- The first of the three checks that fails refuses the access (R27 to R29). -/
theorem State.translate_refuses {s : State} {d : DriveNo} {v : Nat} {r : Requester} {code : FaultCode}
    (h : (code = .barred ∧ s.classOf r = none) ∨
      (code = .noVolume ∧ s.classOf r ≠ none ∧ (s.straps.drives ≤ d.val ∨ s.volume d = .unmounted ∨ s.volume d = .mounting)) ∨
      (code = .beyondVolume ∧ s.classOf r ≠ none ∧ d.val < s.straps.drives ∧ s.volume d ≠ .unmounted ∧ s.volume d ≠ .mounting ∧
        ∃ g, s.geometry[d] = some g ∧ g.volumeSize ≤ v)) (l : Option Lanes) :
    s.translate d v r l = s.refuseEarly d r code := by
  unfold State.translate
  rcases h with ⟨rfl, h⟩ | ⟨rfl, h, hv⟩ | ⟨rfl, h, h1, h2, h3, g, hg, hlt⟩
  · rw [h]
  · obtain ⟨cls, hcls⟩ := Option.ne_none_iff_exists'.mp h
    have hno : s.servesVolume d = false := by
      rw [Bool.eq_false_iff, Ne, State.servesVolume_iff]
      rintro ⟨h1, h2, h3⟩
      rcases hv with e | e | e
      · omega
      · exact h2 e
      · exact h3 e
    rw [hcls]
    exact if_pos hno
  · obtain ⟨cls, hcls⟩ := Option.ne_none_iff_exists'.mp h
    rw [hcls, (s.servesVolume_iff d).mpr ⟨h1, h2, h3⟩, hg]
    exact if_pos hlt

/-- Settles O14: both cycles come to the checks, which refuse. -/
theorem apertureRefusals : Obligations.ApertureRefusals := by
  intro addr c low r s code hp ha hc hcode
  have hexec : ∃ l, exec c s = .next (s.event (fun t => t.translate (windowDrive (wordAddress addr))
      (volumeOffset (cycleAddress (wordAddress addr) low)) r l)) := by
    rcases hc with ⟨high, hb, rfl⟩ | ⟨l, hl, rfl, rfl⟩
    · exact ⟨none, by rw [exec_apertureRead, State.readCycle_aperture hb ha, State.apertureCycle_running hp]⟩
    · exact ⟨some l, by rw [exec_apertureWrite, State.writeCycle_aperture hl ha, State.apertureCycle_running hp]⟩
  obtain ⟨l, hexec⟩ := hexec
  obtain ⟨t, ht, heq, hst⟩ := State.event_stores (s := s)
    (f := fun t => t.translate (windowDrive (wordAddress addr)) (volumeOffset (cycleAddress (wordAddress addr) low)) r l)
    (State.translate_refuses (s := s.bumped) hcode l) rfl rfl rfl
  exact ⟨t, by rw [hexec, ht], heq, hst⟩

/-- A write that its permission or the guard turns away (R30, R31). -/
theorem State.checkWrite_drops {s : State} {a : Access}
    (h : ¬ s.MayWrite a.drive ∨ ¬ s.GuardPasses a.drive a.requester a.place.cylinder) : s.checkWrite a = s.dropWrite a := by
  unfold State.checkWrite
  dsimp only
  by_cases hm : s.MayWrite a.drive
  · have hg := h.resolve_left (not_not_intro hm)
    rw [not_or] at hg
    rw [if_neg, if_pos]
    · exact ⟨by simpa using hg.1, by simpa using hg.2⟩
    · rintro (e | ⟨e1, e2⟩)
      · rw [hm.1] at e; cases e
      · rcases hm.2 with e | e
        · exact e1 e
        · rw [e] at e2; cases e2
  · rw [if_pos]
    by_contra hn
    rw [not_or, not_and_or, not_not] at hn
    exact hm ⟨by simpa using hn.1, hn.2.imp id fun e => by simpa using e⟩

/-- Settles O15: the check drops the write, and the event stores the report. -/
theorem protectedWriteDropped : Obligations.ProtectedWriteDropped := by
  intro addr l a s hadm hl hb hno
  rw [hadm.exec_write hl hb, State.checkWrite_drops (s := s.bumped) hno]
  obtain ⟨heq, hst⟩ := State.finish_stores (s := s) (u := s.bumped.dropWrite a) rfl rfl rfl
  exact ⟨_, rfl, heq, hst⟩

/-- A write to a volume whose writes are held (R32). -/
theorem State.checkWrite_holds {s : State} {a : Access} (h1 : s.MayWrite a.drive)
    (h2 : s.GuardPasses a.drive a.requester a.place.cylinder) (h3 : (s.volume a.drive).holdsWrites = true) :
    s.checkWrite a = s.hold a .writeHold := by
  unfold State.checkWrite
  dsimp only
  rw [if_neg, if_neg, if_pos (show s.records[a.drive].state.holdsWrites = true from h3)]
  · rintro ⟨g1, g2⟩
    rcases h2 with h | h
    · rw [h] at g1; cases g1
    · rw [h] at g2; cases g2
  · rintro (g | ⟨g1, g2⟩)
    · rw [h1.1] at g; cases g
    · rcases h1.2 with h | h
      · exact g1 h
      · rw [h] at g2; cases g2

/-- An entry in a hold status that an access matches. -/
theorem WaiterEntry.matching_hold {w : Waiter} {a : Access} {h : Hold} (hk : w.key = a.key) (hs : w.sector = a.place.sector)
    (hw : w.status = .hold h) : (WaiterEntry.wait w).matching a.key a.place.sector = some w := by
  unfold WaiterEntry.matching
  simp only [hk, hs, and_self, if_true, hw]

theorem WaiterEntry.expiredFor_hold {w : Waiter} {a : Access} {h : Hold} (hk : w.key = a.key) (hs : w.sector = a.place.sector)
    (hw : w.status = .hold h) : (WaiterEntry.wait w).expiredFor a.key a.place.sector = none := by
  unfold WaiterEntry.expiredFor
  rw [WaiterEntry.matching_hold hk hs hw]
  simp only [hw]

/-- Settles O16: the check holds the write, as a new wait or as the one that stands. -/
theorem writeHeldWhileFrozen : Obligations.WriteHeldWhileFrozen := by
  intro addr l a s hadm hl hb hmay hguard hv
  have hholds : (s.bumped.volume a.drive).holdsWrites = true := by
    show (s.volume a.drive).holdsWrites = true
    rcases hv with e | e | e <;> rw [e] <;> rfl
  rw [hadm.exec_write hl hb, State.checkWrite_holds (s := s.bumped) hmay hguard hholds]
  refine ⟨fun hw => ?_, fun w h hw hk hs hst => ?_⟩
  · rw [State.hold_new (s := s.bumped) hw]
    exact congrArg _ (State.finish_unseen rfl rfl rfl rfl rfl rfl rfl rfl rfl)
  · have hwrite : a.write = true := by unfold Access.write; rw [hl]; rfl
    have hhold : s.bumped.hold a .writeHold = ((s.bumped.setWaiter a.requester (.wait
        { key := a.key, sector := a.place.sector, write := true, cls := a.cls, start := w.start,
          status := .hold .writeHold, exceeded := w.exceeded })).answered .retry) := by
      unfold State.hold Access.entry
      rw [show s.bumped.waiters = s.waiters from rfl, hw]
      simp only [WaiterEntry.expiredFor_hold hk hs hst, WaiterEntry.matching_hold hk hs hst, hwrite]
      rfl
    rw [hhold]
    exact congrArg _ (State.finish_unseen rfl rfl rfl rfl rfl rfl rfl rfl rfl)

end Sys2Proof.Machine
end

section
/-! SUPPORT. Served accesses, misses and waits: what each does to the slots, the queues and the Waiter Table. -/

namespace Sys2Proof.Machine

/-! ### Changes of one slot -/

/-- The change of an entry of a list matters at that entry alone. -/
theorem modify_congr_getD {α : Type} (l : List α) (k : Nat) (dflt : α) {f g : α → α} (h : f (l.getD k dflt) = g (l.getD k dflt)) :
    l.modify k f = l.modify k g := by
  refine List.ext_getElem (by rw [List.length_modify, List.length_modify]) fun i h1 h2 => ?_
  rw [List.getElem_modify, List.getElem_modify]
  split
  · rename_i e
    subst e
    rw [List.length_modify] at h1
    rwa [List.getD_eq_getElem l dflt h1] at h
  · rfl

theorem Slot.setSector_congr {t : Slot} {p : Nat} {f g : Sector → Sector} (h : f (t.sector p) = g (t.sector p)) :
    t.setSector p f = t.setSector p g := by
  unfold Slot.setSector
  rw [modify_congr_getD t.sectors p _ h]

/-! ### Served reads and accepted writes -/

/-- A hit of a read on a sector with bytes is served. -/
theorem State.hit_read {s : State} {k : Nat} {a : Access} (hl : a.lanes = none)
    (hs : ((s.slot k).sector a.place.sector).state ≠ .absent) : s.hit k a = s.serveRead k a := by
  unfold State.hit
  dsimp only
  rw [if_neg hs, hl]

/-- A hit of a write on a sector with bytes that is not active is accepted. -/
theorem State.hit_write {s : State} {k : Nat} {a : Access} {l : Lanes} (hl : a.lanes = some l)
    (hs : ((s.slot k).sector a.place.sector).state ≠ .absent) (ha : (s.slot k).active ≠ some a.place.sector) :
    s.hit k a = s.acceptWrite k a l := by
  unfold State.hit
  dsimp only
  rw [if_neg hs, hl]
  exact if_neg ha

theorem State.hit_active {s : State} {k : Nat} {a : Access} {l : Lanes} (hl : a.lanes = some l)
    (hs : ((s.slot k).sector a.place.sector).state ≠ .absent) (ha : (s.slot k).active = some a.place.sector) :
    s.hit k a = s.hold a .onActive := by
  unfold State.hit
  dsimp only
  rw [if_neg hs, hl]
  exact if_pos ha

theorem State.hit_absent {s : State} {k : Nat} {a : Access} (hs : ((s.slot k).sector a.place.sector).state = .absent) :
    s.hit k a = s.hold a .onFill := if_pos hs

/-- Settles O17: the read is served from the slot, with or without a report. -/
theorem apertureReadServed : Obligations.ApertureReadServed := by
  intro addr low high a k s hadm hl hb hw hit
  have hexec : ((s.slot k).sector a.place.sector).state ≠ .absent →
      exec (.apertureRead addr low high a.requester) s = .next (s.finish (s.bumped.serveRead k a)) := fun hs => by
    rw [hadm.exec_read hl hb, State.Hits.handOff (s := s.bumped) hit hw, State.hit_read (s := s.bumped) hl hs]
  refine ⟨fun hs => ?_, fun hs hr => ?_⟩
  · have hne : ((s.slot k).sector a.place.sector).state ≠ .absent ∧
        ¬ (((s.slot k).sector a.place.sector).state = .damaged ∧ ((s.slot k).sector a.place.sector).report = true) := by
      rcases hs with e | e | e | e | ⟨e, r⟩
      all_goals simp only [e, ne_eq, reduceCtorEq, not_false_eq_true, false_and, and_self]
      rw [r]; simp
    rw [hexec hne.1]
    have hserve : s.bumped.serveRead k a =
        (s.bumped.touch k).final a.requester (.done (some (s.bumped.slotWord k a))) := by
      unfold State.serveRead
      dsimp only
      exact congrArg (fun t : State => (t.touch k).final a.requester (.done (some (s.bumped.slotWord k a)))) (if_neg hne.2)
    rw [hserve]
    exact congrArg _ (State.finish_unseen rfl rfl rfl rfl rfl rfl rfl rfl rfl)
  · rw [hexec (by rw [hs]; simp)]
    have hserve : s.bumped.serveRead k a =
        ((((s.bumped.report a.drive (a.report .readDamaged)).updSlot k
          (fun t => t.setSector a.place.sector (fun x => { x with report := false }))).touch k).final a.requester
            (.done (some (s.bumped.slotWord k a)))) := by
      unfold State.serveRead
      dsimp only
      exact congrArg (fun t : State => (t.touch k).final a.requester (.done (some (s.bumped.slotWord k a)))) (if_pos ⟨hs, hr⟩)
    obtain ⟨heq, hst⟩ := State.finish_stores (s := s) (u := s.bumped.serveRead k a) (by rw [hserve]; rfl) (by rw [hserve]; rfl)
      (by rw [hserve]; rfl)
    refine ⟨_, rfl, ?_, hst⟩
    rw [hserve] at heq ⊢
    exact heq

/-- An age write-back is not due where its conditions fail or its time has not come (R140). -/
theorem State.ageCheck_none {s : State} {k : Nat}
    (h : (s.slot k).state ≠ .resident ∨ s.link k ≠ none ∨ ∀ m, (s.slot k).dirtySince = some m → s.now.ms < m + s.settings.ageMs) :
    s.ageCheck k = s := by
  unfold State.ageCheck State.ageReady
  dsimp only
  split
  · rename_i m hm
    split at hm
    · rename_i hc
      rcases h with h | h | h
      · exact absurd hc.1 h
      · exact absurd hc.2.1 h
      · exact if_neg (Nat.not_le.mpr (h m hm))
    · cases hm
  · rfl

/-- A link of a slot whose key is kept, in a state with the same queues. -/
theorem State.link_congr {s u : State} {k : Nat} (hk : (u.slot k).key = (s.slot k).key) (hd : u.drives = s.drives) :
    u.link k = s.link k := by
  unfold State.link; rw [hk, hd]

/-- A slot address lies outside the Control Block. -/
theorem State.slotAddr_outside (s : State) (k w a : Nat) (h : s.inControlBlock a) : a ≠ s.slotAddr k w ∧ a ≠ s.slotAddr k w + 1 := by
  have := s.straps.cb_below_pool
  have hle : s.straps.poolBase ≤ s.slotAddr k w := by
    unfold State.slotAddr
    rw [Nat.add_assoc]
    exact Nat.le_add_right _ _
  unfold State.inControlBlock at h
  omega

/-- Settles O18: an accepted write, and one to the active sector. -/
theorem apertureWriteAccepted : Obligations.ApertureWriteAccepted := by
  intro addr l a k s hadm hl hb hmay hguard hfz hfr hrl hit
  have hexec : (s.waiters[a.requester] : WaiterEntry).failedFor a.key a.place.sector = none →
      exec (.apertureWrite addr l a.requester) s = .next (s.finish (s.bumped.hit k a)) := fun hw => by
    rw [hadm.exec_write hl hb, State.checkWrite_passes (s := s.bumped) hmay hguard hfz hfr hrl,
      State.Hits.handOff (s := s.bumped) hit hw]
  refine ⟨fun since hw hk hp hs ha hsince hage => ?_, fun hw hs ha => ?_⟩
  · have habs : ((s.slot k).sector a.place.sector).state ≠ .absent := by
      rcases hs with e | e | e | e | e <;> rw [e] <;> simp
    rw [hexec hw, State.hit_write (s := s.bumped) hl habs ha]
    let u : State := { s.bumped with
      slots := s.slots.modify k (fun x =>
        { (x.setSector a.place.sector (fun e => if e.state = .outbound then e else { state := .dirty, report := false })) with
          writeFailed := false
          dirtySince := since })
      recency := k :: s.recency.erase k
      mem := Memory.storeLanes s.mem (s.slotAddr k (a.place.offset - a.place.offset % 2)) l }
    have hbus : ((s.slot k).sector a.place.sector).writtenByBus =
        if ((s.slot k).sector a.place.sector).state = .outbound then (s.slot k).sector a.place.sector
        else { state := .dirty, report := false } := by
      unfold Sector.writtenByBus
      rcases hs with e | e | e | e | e <;> simp only [e, reduceCtorEq, if_true, if_false]
    have hmod : s.slots.modify k (fun t => t.writtenByBus a.place.sector s.now.ms) = u.slots := by
      refine modify_congr_getD s.slots k Slot.blank ?_
      show (s.slot k).writtenByBus a.place.sector s.now.ms = _
      unfold Slot.writtenByBus
      rw [Slot.setSector_congr (g := fun e => if e.state = .outbound then e else { state := .dirty, report := false }) hbus, hsince]
      rfl
    have hslot : u.slot k = { ((s.slot k).setSector a.place.sector
        (fun e => if e.state = .outbound then e else { state := .dirty, report := false })) with
          writeFailed := false, dirtySince := since } := State.slot_updSlot_same (s := s) hk
    have hlink : u.link k = s.link k := State.link_congr (by rw [hslot]; rfl) rfl
    have hcheck : u.ageCheck k = u := by
      refine State.ageCheck_none ?_
      rw [hlink, hslot]
      exact hage
    have hacc : s.bumped.acceptWrite k a l = u.final a.requester (.done none) := by
      have hu : ((State.withMem s.bumped u.mem).updSlot k (fun t => t.writtenByBus a.place.sector s.bumped.now.ms)).touch k = u := by
        unfold State.updSlot State.touch State.withMem
        dsimp only
        exact congrArg (fun sl => ({ u with slots := sl } : State)) hmod
      have hmem : s.bumped.acceptWrite k a l =
          (if ((((State.withMem s.bumped u.mem).updSlot k (fun t => t.writtenByBus a.place.sector s.bumped.now.ms)).touch k).ageCheck
              k).link k = s.link k
            then (((State.withMem s.bumped u.mem).updSlot k (fun t => t.writtenByBus a.place.sector s.bumped.now.ms)).touch k).ageCheck k
            else ((((State.withMem s.bumped u.mem).updSlot k
              (fun t => t.writtenByBus a.place.sector s.bumped.now.ms)).touch k).ageCheck k).schedule).final a.requester (.done none) := rfl
      rw [hmem, hu, hcheck, if_pos hlink]
    rw [hacc]
    have hread : ∀ x, Memory.read u.mem x =
        if x = s.slotAddr k (a.place.offset - a.place.offset % 2) then l.lo.getD (Memory.read s.mem x)
        else if x = s.slotAddr k (a.place.offset - a.place.offset % 2) + 1 then l.hi.getD (Memory.read s.mem x)
        else Memory.read s.mem x := Memory.read_storeLanes s.mem _ l
    obtain ⟨heq, hout, hin⟩ := State.finish_outside (s := s) (u := u.final a.requester (.done none)) rfl rfl fun x hx => by
      obtain ⟨h1, h2⟩ := s.slotAddr_outside k (a.place.offset - a.place.offset % 2) x hx
      show Memory.read u.mem x = _
      rw [hread, if_neg h1, if_neg h2]
    exact ⟨_, rfl, heq, fun x hx => (hout x hx).trans (hread x), hin⟩
  · have hfailed : (s.waiters[a.requester] : WaiterEntry).failedFor a.key a.place.sector = none := by rw [hw]; rfl
    rw [hexec hfailed, State.hit_active (s := s.bumped) hl hs ha, State.hold_new (s := s.bumped) hw]
    exact congrArg _ (State.finish_unseen rfl rfl rfl rfl rfl rfl rfl rfl rfl)

/-! ### Held accesses -/

/-- The operations of a queue with the class of a slot's FILL raised (R66, R78). -/
def raisedQueue (k : Nat) (cls : OpClass) (q : List Op) : List Op :=
  q.map (fun o => if o.work.slot? = some k ∧ o.work.isFill = true then { o with cls := o.cls.max cls } else o)

/-- A recording ON_FILL raises the class of the FILL of the slot that holds the key. -/
theorem State.raiseFill_of_lookup {s : State} {key : Key} {k : Nat} (h : s.lookup key = some k) (cls : OpClass) :
    s.raiseFill key cls .onFill =
      { s with drives := upd s.drives key.drive (fun v => { v with queue := raisedQueue k cls v.queue }) } := by
  unfold State.raiseFill
  rw [if_pos rfl, h]
  dsimp only
  unfold State.updOp State.updDrive raisedQueue
  simp only [ite_and]

/-- An event that changes nothing that the block shows but operations in the queues stores nothing. -/
theorem State.finish_unseen_drives {s u : State} (hp : u.phase = s.phase) (h0 : u.layoutVersion = s.layoutVersion)
    (h1 : u.straps = s.straps) (h2 : u.settings = s.settings) (h3 : u.classes = s.classes) (h4 : u.records = s.records)
    (h5 : ∀ d : DriveNo, u.drives[d].media = s.drives[d].media ∧ u.drives[d].head = s.drives[d].head) (h6 : u.slots = s.slots)
    (h7 : u.faults = s.faults) : s.finish u = u :=
  State.finish_same hp (State.cbByte_congr_drives h0 h1 h2 h3 h4 h5 h6 h7) h7

/-- A drive with another queue shows the same media state and head position. -/
theorem upd_queue_shows (v : Vector Drive 4) (d : DriveNo) (f : List Op → List Op) (e : DriveNo) :
    (upd v d (fun x => { x with queue := f x.queue }))[e].media = v[e].media ∧
      (upd v d (fun x => { x with queue := f x.queue }))[e].head = v[e].head := by
  rw [upd_get]
  split
  · rename_i h; subst h; exact ⟨rfl, rfl⟩
  · exact ⟨rfl, rfl⟩

/-- Settles O19: the hit is held ON_FILL and raises the FILL. -/
theorem absentSectorHeld : Obligations.AbsentSectorHeld := by
  intro addr low a k c s hadm hc hwr hw hit hs
  have hhand : s.bumped.handOff a = s.bumped.hold a .onFill := by
    rw [State.Hits.handOff (s := s.bumped) hit
      (by show (s.waiters[a.requester] : WaiterEntry).failedFor a.key a.place.sector = none; rw [hw]; rfl)]
    exact State.hit_absent (s := s.bumped) hs
  have hexec : exec c s = .next (s.finish (s.bumped.hold a .onFill)) := by
    rw [hadm.exec hc, State.event_eq]
    split
    · rename_i hwrite
      obtain ⟨hmay, hguard, hfz, hfr, hrl⟩ := hwr hwrite
      rw [State.checkWrite_passes (s := s.bumped) hmay hguard hfz hfr hrl, hhand]
    · rw [hhand]
  rw [hexec, State.hold_new (s := s.bumped) hw,
    State.raiseFill_of_lookup (s := s.bumped.setWaiter a.requester (a.newWait .onFill s.bumped.now)) hit.1]
  exact congrArg _ (State.finish_unseen_drives rfl rfl rfl rfl rfl rfl (upd_queue_shows s.drives a.drive _) rfl rfl)

/-- An entry in EXPIRED that an access matches. -/
theorem WaiterEntry.matching_expired {w : Waiter} {a : Access} {h : Hold} (hk : w.key = a.key) (hs : w.sector = a.place.sector)
    (hw : w.status = .expired h) : (WaiterEntry.wait w).matching a.key a.place.sector = some w := by
  unfold WaiterEntry.matching
  simp only [hk, hs, and_self, if_true, hw]

theorem WaiterEntry.expiredFor_expired {w : Waiter} {a : Access} {h : Hold} (hk : w.key = a.key) (hs : w.sector = a.place.sector)
    (hw : w.status = .expired h) : (WaiterEntry.wait w).expiredFor a.key a.place.sector = some h := by
  unfold WaiterEntry.expiredFor
  rw [WaiterEntry.matching_expired hk hs hw]
  simp only [hw]

/-- Settles O21: the hit finds its wait expired, and the timeout action decides. -/
theorem expiredWaitAnswered : Obligations.ExpiredWaitAnswered := by
  intro addr low high a k w h s hadm hl hb hit hs hw hkey hsec hst
  have hfailed : (s.waiters[a.requester] : WaiterEntry).failedFor a.key a.place.sector = none := by
    rw [hw]; unfold WaiterEntry.failedFor; simp only [hkey, hsec, and_self, if_true, hst]
  have hexec : exec (.apertureRead addr low high a.requester) s = .next (s.finish (s.bumped.hold a .onFill)) := by
    rw [hadm.exec_read hl hb, State.Hits.handOff (s := s.bumped) hit hfailed]
    exact congrArg (fun t => Host.Outcome.next (s.finish t)) (State.hit_absent (s := s.bumped) hs)
  have hwrite : a.write = false := by unfold Access.write; rw [hl]; rfl
  have hhold : s.bumped.hold a .onFill =
      if s.settings.givesUp then (s.bumped.report a.drive (a.report .waitExceeded)).final a.requester (.done (some 0xFFFF#16))
      else ((((s.bumped.report a.drive (a.report .waitExceeded)).setWaiter a.requester
        (.wait { key := a.key, sector := a.place.sector, write := false, cls := a.cls, start := w.start,
                 status := .hold .onFill, exceeded := true })).raiseFill a.key a.cls .onFill).answered .retry) := by
    unfold State.hold Access.entry
    rw [show s.bumped.waiters = s.waiters from rfl, hw]
    simp only [WaiterEntry.expiredFor_expired hkey hsec hst, WaiterEntry.matching_expired hkey hsec hst, hwrite]
    rfl
  rw [hexec, hhold]
  refine ⟨fun hact => ?_, fun hact => ?_⟩
  · have hup : s.settings.givesUp = true := by unfold Settings.givesUp; rw [hact]; decide
    rw [if_pos hup]
    obtain ⟨heq, hstore⟩ := State.finish_stores (s := s)
      (u := (s.bumped.report a.drive (a.report .waitExceeded)).final a.requester (.done (some 0xFFFF#16))) rfl rfl rfl
    exact ⟨_, rfl, heq, hstore⟩
  · have hup : ¬ s.settings.givesUp = true := by unfold Settings.givesUp; rw [hact]; decide
    rw [if_neg hup, State.raiseFill_of_lookup (s := (s.bumped.report a.drive (a.report .waitExceeded)).setWaiter a.requester _) hit.1]
    refine ⟨_, rfl, State.finish_stores rfl rfl rfl⟩

/-- Settles O22: the entry has failed, and the code decides what is reported. -/
theorem failedWaitAnswered : Obligations.FailedWaitAnswered := by
  intro addr low high a w code s hadm hl hb hw hkey hsec hst
  have hfailed : (s.waiters[a.requester] : WaiterEntry).failedFor a.key a.place.sector = some code := by
    rw [hw]; unfold WaiterEntry.failedFor; simp only [hkey, hsec, and_self, if_true, hst]
  have hhand : s.bumped.handOff a = match code with
      | .drive _ => s.bumped.final a.requester .fault
      | c => s.bumped.refuse a c.code := by
    unfold State.handOff
    rw [show s.bumped.waiters = s.waiters from rfl, hfailed]
    cases code <;> rfl
  rw [hadm.exec_read hl hb, hhand]
  cases code <;> exact ⟨_, rfl, State.finish_stores rfl rfl rfl⟩

/-! ### Misses -/

/-- An event that gives a drive at rest with a stopped motor its first operation: it is chosen, the motor starts, and the event
stores what it changes. -/
theorem State.finish_started {s u : State} (h : s.Steady) (hp : u.phase = s.phase) (hs : u.straps = s.straps) (hm : u.mem = s.mem)
    {d : DriveNo} {o : Op} (hq : s.drives[d].queue = []) (hstop : s.drives[d].media = .stopped)
    (hd : u.drives = upd s.drives d (fun v =>
      { v with queue := [{ o with enqueued := u.now, promoted := u.now, phase := .queued }] }))
    (hv : ∀ e : DriveNo, u.NoDrain e) :
    s.finish u.schedule =
      { u with drives := upd s.drives d (fun v => v.startedFor o u.now), mem := (s.finish u.schedule).mem } ∧
      s.Stores (s.finish u.schedule) := by
  rw [State.started_schedule h hp hq hstop hd hv]
  exact State.finish_stores (s := s) (u := { u with drives := upd s.drives d (fun v => v.startedFor o u.now) }) hp hs hm

/-- The operation that begins in a queue (R76). -/
def Op.asked (work : Work) (reason : Option Reason) (cylinder head : Nat) (cls : OpClass) (now : Stamp) : Op :=
  { work := work, reason := reason, cylinder := cylinder, head := head, cls := cls, enqueued := now, promoted := now, phase := .queued }

/-- The first operation of a drive without one. -/
theorem State.queueOp_first {s : State} {d : DriveNo} (hq : s.drives[d].queue = []) (work : Work) (reason : Option Reason)
    (cyl head : Nat) (cls : OpClass) : s.queueOp d work reason cyl head cls =
      { s with drives := upd s.drives d (fun v => { v with queue := [Op.asked work reason cyl head cls s.now] }) } := by
  unfold State.queueOp State.updDrive
  rw [upd_congr s.drives d (g := fun v => { v with queue := [Op.asked work reason cyl head cls s.now] }) (by rw [hq]; rfl)]

/-- The entry of a slot that is assigned to a key (R44). -/
def State.assigned (s : State) (key : Key) : Slot where
  state := .filling
  key := some key
  generation := s.records[key.drive].generation
  sectors := List.replicate (s.sectorCount key.drive) { state := .absent, report := false }
  dirtySince := none
  writeFailed := false
  yields := 0
  active := none
  pendingWrite := none

/-- An assignment to a key of a drive without an operation (R44). -/
theorem State.assign_first {s : State} {k : Nat} {key : Key} (hk : k < s.slots.length) (hq : s.drives[key.drive].queue = [])
    (cls : OpClass) : s.assign k key cls =
      { s with
        slots := s.slots.modify k (fun _ => s.assigned key)
        freeList := s.freeList.erase k
        recency := k :: s.recency.erase k
        drives := upd s.drives key.drive (fun v => { v with
          queue := [Op.asked (.fill k s.records[key.drive].generation) none key.cylinder key.head cls s.now] }) } := by
  have hslot : (s.updSlot k (fun _ => s.assigned key)).slot k = s.assigned key := State.slot_updSlot_same hk
  have hop : s.drives[key.drive].opOf (some k) = none := Drive.opOf_none.mpr (by rw [hq]; simp)
  show State.requestFill { s.updSlot k (fun _ => s.assigned key) with
      freeList := s.freeList.erase k, recency := k :: s.recency.erase k } k key cls = _
  unfold State.requestFill
  rw [show ({ s.updSlot k (fun _ => s.assigned key) with
      freeList := s.freeList.erase k, recency := k :: s.recency.erase k } : State).drives = s.drives from rfl, hop]
  dsimp only
  rw [State.queueOp_first (by exact hq)]
  rw [show ({ s.updSlot k (fun _ => s.assigned key) with
      freeList := s.freeList.erase k, recency := k :: s.recency.erase k } : State).slot k = s.assigned key from hslot]
  rfl

/-- A slot assigned to a key that no slot held is the one found for it. -/
theorem State.lookup_assigned {s u : State} {k : Nat} {key : Key} {x : Slot} (h : s.lookup key = none) (hk : k < s.slots.length)
    (hu : u.slots = s.slots.modify k (fun _ => x)) (hx : x.state ≠ .free ∧ x.key = some key) : u.lookup key = some k := by
  unfold State.lookup at h ⊢
  rw [List.findIdx?_eq_none_iff] at h
  rw [hu, List.findIdx?_eq_some_iff_getElem]
  refine ⟨by rwa [List.length_modify], ?_, fun j hj => ?_⟩
  · rw [List.getElem_modify, if_pos rfl, hx.2]; simpa using hx.1
  · rw [List.getElem_modify, if_neg (by omega)]
    simpa using h _ (List.getElem_mem (by omega))

/-- The write that step 3 of the victim rule asks of a slot, on a drive without an operation (R43, R142). -/
theorem State.requestWrite_first {s : State} {k : Nat} {key : Key} (hk : (s.slot k).key = some key)
    (hq : s.drives[key.drive].queue = []) (reason : Reason) (cls : OpClass) : s.requestWrite k reason cls =
      { s with drives := upd s.drives key.drive (fun v => { v with
          queue := [Op.asked (.write k (s.slot k).generation (decide (reason = .evict))) (some reason) key.cylinder key.head cls
            s.now] }) } := by
  have hop : s.drives[key.drive].opOf (some k) = none := Drive.opOf_none.mpr (by rw [hq]; simp)
  unfold State.requestWrite
  rw [hk]
  dsimp only
  rw [hop]
  exact State.queueOp_first hq ..

theorem State.reusable_iff (s : State) (k : Nat) : s.reusable k = true ↔ s.Reusable k := by
  unfold State.reusable
  simp only [Bool.and_eq_true, decide_eq_true_eq, Bool.not_eq_true', Option.isNone_iff_eq_none, List.all_eq_true, Bool.or_eq_true,
    and_assoc]

theorem State.evictable_iff (s : State) (k : Nat) : s.evictable false k = true ↔ s.Evictable k := by
  unfold State.evictable
  simp only [Bool.and_eq_true, decide_eq_true_eq, Bool.not_eq_true', and_assoc, Bool.false_and]
  refine and_congr_right fun _ => and_congr_left fun _ => ?_
  cases s.link k <;> simp

/-- With no free slot and none to reuse there is no victim (R43). -/
theorem State.victim_none {s : State} (hf : s.freeList = []) (hr : ∀ j ∈ s.recency, ¬ s.Reusable j) : s.victim = none := by
  unfold State.victim
  rw [hf]
  refine List.find?_eq_none.mpr fun j hj => ?_
  rw [State.reusable_iff]
  exact hr j (List.mem_reverse.mp hj)

theorem State.evictionTarget_none {s : State} (h : ∀ j ∈ s.recency, ¬ s.Evictable j) : s.evictionTarget false = none := by
  refine List.find?_eq_none.mpr fun j hj => ?_
  rw [State.evictable_iff]
  exact h j (List.mem_reverse.mp hj)

/-- The least recent slot that may be written is the one chosen. -/
theorem State.evictionTarget_some {s : State} {k : Nat} {newer older : List Nat} (hr : s.recency = newer ++ k :: older)
    (hk : s.Evictable k) (ho : ∀ j ∈ older, ¬ s.Evictable j) : s.evictionTarget false = some k := by
  unfold State.evictionTarget
  rw [List.find?_eq_some_iff_append]
  refine ⟨(s.evictable_iff k).mpr hk, older.reverse, newer.reverse, by rw [hr]; simp, fun j hj => ?_⟩
  rw [Bool.not_eq_true', Bool.eq_false_iff, Ne, State.evictable_iff]
  exact ho j (List.mem_reverse.mp hj)

/-- A read of a track that no slot holds, of a volume that is served, runs the victim rule (R38, R43). -/
theorem State.handOff_misses {s : State} {a : Access} (hw : s.waiters[a.requester] = .empty)
    (hv : s.volume a.drive = .mounted ∨ s.volume a.drive = .flushing ∨ s.volume a.drive = .frozen) (hl : s.lookup a.key = none) :
    s.handOff a = s.miss a := by
  have hf : s.found a = none := by unfold State.found; rw [hl]
  have hlost : s.volumeLost a.drive = false := by
    unfold State.volumeLost
    rcases hv with e | e | e <;> rw [e] <;> rfl
  have hrel : s.volume a.drive ≠ .releasing := by rcases hv with e | e | e <;> rw [e] <;> simp
  unfold State.handOff
  rw [hw, WaiterEntry.failedFor_empty]
  dsimp only
  unfold State.directory
  rw [hf, hlost, hw]
  dsimp only
  rw [if_neg (by simp), if_neg hrel]
  rfl

/-- A wait of another kind than ON_FILL raises nothing. -/
theorem State.raiseFill_other {s : State} {h : Hold} (hh : h ≠ .onFill) (key : Key) (cls : OpClass) : s.raiseFill key cls h = s :=
  if_neg hh

theorem OpClass.max_self (c : OpClass) : c.max c = c := by cases c <;> rfl

/-- Settles O20: the three outcomes of the victim rule. -/
theorem readMissStartsFill : Obligations.ReadMissStartsFill := by
  refine ⟨fun addr low high a k rest g s hadm hl hb hst hg hv hw hlk hfree hk hq hm => ?_,
    fun addr low high a s hadm hl hb hst hv hw hlk hfree hre => ⟨fun hev => ?_, fun k newer older key hrec hev hold hkey hq hm => ?_⟩⟩
  all_goals rw [hadm.exec_read hl hb, State.handOff_misses (s := s.bumped) hw hv hlk]
  · have hvic : s.bumped.victim = some k := by unfold State.victim; rw [show s.bumped.freeList = k :: rest from hfree]
    let o : Op := Op.asked (.fill k s.records[a.drive].generation) none a.place.cylinder a.place.head a.cls s.eventStamp
    let u : State := { s.bumped with
      slots := s.slots.modify k (fun _ => s.assigned a.key)
      freeList := rest
      recency := k :: s.recency.erase k
      waiters := upd s.waiters a.requester (fun _ => a.newWait .onFill s.eventStamp)
      drives := upd s.drives a.drive (fun v => { v with queue := [o] })
      answer := some .retry }
    have hassign : s.bumped.assign k a.key a.cls = { s.bumped with
        slots := u.slots, freeList := rest, recency := u.recency, drives := u.drives } := by
      rw [State.assign_first (s := s.bumped) (key := a.key) hk hq]
      rw [show s.bumped.freeList = k :: rest from hfree, List.erase_cons_head]
      rfl
    have hmiss : s.bumped.miss a = u.schedule := by
      unfold State.miss
      rw [hvic]
      dsimp only
      rw [hassign, State.hold_new (by exact hw), State.raiseFill_of_lookup (k := k)
        (by exact State.lookup_assigned (s := s) hlk hk rfl ⟨by simp [State.assigned], rfl⟩)]
      dsimp only [State.setWaiter, State.answered]
      congr 1
      have hmax : raisedQueue k a.cls [o] = [o] := by
        show [if some k = some k ∧ true = true then { o with cls := a.cls.max a.cls } else o] = [o]
        rw [if_pos ⟨rfl, rfl⟩, OpClass.max_self]
        rfl
      have hraised : upd u.drives a.drive (fun v => { v with queue := raisedQueue k a.cls v.queue }) = u.drives := by
        have hd : u.drives[a.drive] = { s.drives[a.drive] with queue := [o] } := upd_get_same s.drives a.drive _
        refine upd_same u.drives a.drive ?_
        rw [hd]
        exact congrArg (fun q => ({ s.drives[a.drive] with queue := q } : Drive)) hmax
      exact congrArg (fun ds => ({ u with drives := ds } : State)) hraised
    obtain ⟨heq, hstore⟩ := State.finish_started (u := u) (o := o) hst rfl rfl rfl hq hm rfl (State.noDrain_congr hst fun _ => rfl)
    rw [hmiss]
    refine ⟨_, rfl, ?_, hstore⟩
    rw [heq]
    have hcount : s.sectorCount a.drive = sectorsPerTrack g.size := by unfold State.sectorCount; rw [hg]
    rw [← hcount]
    rfl
  · have hmiss : s.bumped.miss a = (s.bumped.report a.drive (a.report .slotStarved)).hold a .slotWait := by
      unfold State.miss
      rw [State.victim_none (s := s.bumped) hfree hre]
      dsimp only
      rw [State.evictionTarget_none (s := s.bumped) hev]
    rw [hmiss, State.hold_new (by exact hw), State.raiseFill_other (by simp)]
    exact ⟨_, rfl, State.finish_stores rfl rfl rfl⟩
  · let o : Op := Op.asked (.write k (s.slot k).generation true) (some .evict) key.cylinder key.head a.cls s.eventStamp
    let u : State := { s.bumped with
      waiters := upd s.waiters a.requester (fun _ => a.newWait .slotWait s.eventStamp)
      drives := upd s.drives key.drive (fun v => { v with queue := [o] })
      answer := some .retry }
    have hmiss : s.bumped.miss a = u.schedule := by
      unfold State.miss
      rw [State.victim_none (s := s.bumped) hfree hre]
      dsimp only
      rw [State.evictionTarget_some (s := s.bumped) hrec hev hold]
      dsimp only
      rw [State.requestWrite_first (s := s.bumped) hkey hq, State.hold_new (by exact hw), State.raiseFill_other (by simp)]
      rfl
    rw [hmiss]
    exact ⟨_, rfl, State.finish_started (u := u) (o := o) hst rfl rfl rfl hq hm rfl (State.noDrain_congr hst fun _ => rfl)⟩

end Sys2Proof.Machine
end

section
/-! SUPPORT. Control Block writes: the word a write reaches, and what its owners do with it. -/

namespace Sys2Proof.Machine

/-! ### The words of the block -/

/-- Every row that is a Control Block write is one cycle at its word. -/
theorem exec_of_cbWriteOf {c : Instr} {o : Nat} {l : Lanes} {r : Requester} (h : cbWriteOf c = some (o, l, r)) (s : State) :
    exec c s = .next (s.cbCycle o l r) := by
  cases c with
  | guardFieldWrite d g l r => cases g <;> cases h <;> rfl
  | _ => cases h <;> rfl

/-- The word of a Control Block write lies in the block. -/
theorem cbWriteOf_lt {c : Instr} {o : Nat} {l : Lanes} {r : Requester} (h : cbWriteOf c = some (o, l, r)) : o + 1 < 512 := by
  have hd := fun d : DriveNo => (recordOffset_lt d).2
  cases c with
  | guardFieldWrite d g l r => cases g <;> cases h <;> have := hd d <;> omega
  | mount d | flush d | freeze d | thaw d | release d | reclaim d | discard d | unknownRequest d | outcomeClear d
  | writeAllowWrite d | guardLockWrite d => cases h; have := hd d; omega
  | faultRecordClear f | settingsWrite f | classTableWrite f | controlBlockWrite f => cases h; have := f.isLt; omega
  | _ => cases h

/-- The Settings are written byte by byte, the low one first (R149). -/
theorem State.putWord_settings (s : State) (p : Fin 4) (l : Lanes) : s.putWord (0x10 + 2 * p.val) l =
    onByte l.hi (fun b t => t.putSetting (2 * p.val + 1) b) (onByte l.lo (fun b t => t.putSetting (2 * p.val) b) s) := by
  have := p.isLt
  unfold State.putWord
  rw [if_neg (by omega), if_pos (by omega), show 0x10 + 2 * p.val + 1 - 0x10 = 2 * p.val + 1 by omega, Nat.add_sub_cancel_left]

/-- The classes are written byte by byte, the low one first (R150). -/
theorem State.putWord_classes (s : State) (p : Fin 4) (l : Lanes) : s.putWord (0x20 + 2 * p.val) l =
    onByte l.hi (fun b t => t.putClass (Fin.ofNat 8 (2 * p.val + 1)) b)
      (onByte l.lo (fun b t => t.putClass (Fin.ofNat 8 (2 * p.val)) b) s) := by
  have := p.isLt
  unfold State.putWord
  rw [if_neg (by omega), if_neg (by omega), if_neg (by omega), if_pos (by omega),
    show 0x20 + 2 * p.val + 1 - 0x20 = 2 * p.val + 1 by omega, Nat.add_sub_cancel_left]

/-- A word of a Mount Record (R146). -/
theorem State.putWord_record (s : State) (d : DriveNo) {o : Nat} (ho : o < 0x40) (l : Lanes) :
    s.putWord (recordOffset d + o) l = s.putRecordWord d o l := by
  have hd := d.isLt
  have hdrive : Fin.ofNat 4 ((recordOffset d + o - 0x40) / 0x40) = d := Fin.ext (by
    show (recordOffset d + o - 0x40) / 0x40 % 4 = d.val
    unfold recordOffset; omega)
  have hoff : (recordOffset d + o - 0x40) % 0x40 = o := by unfold recordOffset; omega
  unfold State.putWord
  rw [hdrive, hoff]
  unfold recordOffset
  rw [if_neg (by omega), if_neg (by omega), if_neg (by omega), if_neg (by omega), if_neg (by omega), if_pos (by omega)]

/-- The code word of a Fault Record (R153). -/
theorem State.putWord_fault (s : State) (f : Fin 5) (l : Lanes) : s.putWord (0x140 + f.val * 0x10) l = s.clearFault f l := by
  have hf := f.isLt
  have hrec : Fin.ofNat 5 ((0x140 + f.val * 0x10 - 0x140) / 0x10) = f := Fin.ext (by
    show (0x140 + f.val * 0x10 - 0x140) / 0x10 % 5 = f.val
    omega)
  unfold State.putWord
  rw [hrec, if_neg (by omega), if_neg (by omega), if_neg (by omega), if_neg (by omega), if_neg (by omega), if_neg (by omega),
    if_pos (by omega)]

/-- A word of a Mount Record from offset 10h on that is not the outcome is the part's own or no field (R147). -/
theorem State.putRecordWord_held (s : State) (d : DriveNo) {o : Nat} (h : 0x10 ≤ o ∧ o ≠ 0x12) (l : Lanes) :
    s.putRecordWord d o l = s := by
  unfold State.putRecordWord
  rw [if_neg (by omega), if_neg h.2, if_neg (by omega)]

/-- A word without a host-owned field, an outcome or a fault code is no owner's (R147). -/
theorem State.putWord_held (s : State) {i : Nat} (l : Lanes)
    (h : i < 0x08 ∨ (0x0C ≤ i ∧ i < 0x10) ∨ (0x14 ≤ i ∧ i < 0x20) ∨
      (0x20 ≤ i ∧ i < 0xA0 ∧ 0x08 ≤ (i - 0x20) % 0x20 ∧ (i - 0x20) % 0x20 ≠ 0x09) ∨
      (0xA0 ≤ i ∧ i < 0xC8 ∧ (i - 0xA0) % 8 ≠ 0) ∨ 0xC8 ≤ i) : s.putWord (2 * i) l = s := by
  unfold State.putWord
  split_ifs <;> first
    | rfl
    | omega
    | exact State.putRecordWord_held s _ (by omega) l

/-! ### Writes that no owner takes -/

/-- A Control Block write that its owners do not take: DONE, and the bytes land. -/
theorem State.cbWrite_held {s : State} {o : Nat} {l : Lanes} {r : Requester} (hp : s.phase = .running) (ho : o + 1 < 512)
    (h : (if r = 0 then s.bumped.putWord o l else s.bumped) = s.bumped) :
    ∃ t, s.cbWrite o l r = t ∧ t = { s with now := s.eventStamp, answer := some (.done none), mem := t.mem } ∧ s.Lands t o l :=
  State.cbWrite_lands hp ho h hp rfl rfl

/-- Settles O23: the cycle is held off while watching is stopped. -/
theorem controlBlockWriteRetriedWhileStopped : Obligations.ControlBlockWriteRetriedWhileStopped := by
  intro c o l r s hc hl hp
  rw [exec_of_cbWriteOf hc, State.cbCycle_enabled hl]
  unfold State.cbWrite State.watching
  rw [if_neg (by simpa using hp)]
  rfl

/-- Settles O24: the requester, or the word, has no owner that takes the write. -/
theorem fieldsHeldAgainstWrites : Obligations.FieldsHeldAgainstWrites := by
  refine ⟨fun c o l r s hc hl hr hp => ?_, fun i l s hp hl hi => ?_⟩
  · obtain ⟨t, ht, hs⟩ := State.cbWrite_held hp (cbWriteOf_lt hc) (l := l) (if_neg hr)
    exact ⟨t, by rw [exec_of_cbWriteOf hc, State.cbCycle_enabled hl, ht], hs⟩
  · obtain ⟨t, ht, hs⟩ := State.cbWrite_held (o := 2 * i.val) (r := 0) hp (by have := i.isLt; omega)
      ((if_pos rfl).trans (State.putWord_held s.bumped l hi))
    exact ⟨t, by rw [exec_controlBlockWrite, State.cbCycle_enabled hl, ht], hs⟩

/-! ### Clears -/

/-- A low byte of zero leaves the word of a small code NONE. -/
theorem clearsWord_low (high : Bool) : ∀ code : Fin 256, clearsWord code.val (zeroLanes true high) = true := by
  cases high <;> decide +kernel

/-- A high byte of zero alone leaves a small code as it is. -/
theorem clearsWord_high : ∀ code : Fin 256, code.val ≠ 0 → clearsWord code.val (zeroLanes false true) = false := by
  decide +kernel

theorem ReqOutcome.encode_lt (o : ReqOutcome) : o.encode < 256 ∧ (o ≠ .none → o.encode ≠ 0) := by cases o <;> decide

theorem FaultCode.encode_lt (c : FaultCode) : c.encode < 256 ∧ (c ≠ .none → c.encode ≠ 0) := by cases c <;> decide

theorem State.putWord_outcome (s : State) (d : DriveNo) (l : Lanes) :
    s.putWord (recordOffset d + 0x12) l = s.clearOutcome d l := by
  rw [State.putWord_record s d (by decide)]
  unfold State.putRecordWord
  rw [if_neg (by decide), if_pos rfl]

theorem zeroLanes_enabled (low high : Bool) (h : (low || high) = true) : (zeroLanes low high).enabled = true := by
  cases low <;> cases high <;> first | rfl | cases h

/-- Settles O25: the word after the write is NONE, or another value. -/
theorem clearsEmptyOutcomeAndFault : Obligations.ClearsEmptyOutcomeAndFault := by
  have hrec : ∀ d : DriveNo, recordOffset d + 0x12 + 1 < 512 := fun d => by have := (recordOffset_lt d).2; omega
  have hflt : ∀ f : Fin 5, 0x140 + f.val * 0x10 + 1 < 512 := fun f => by have := f.isLt; omega
  refine ⟨fun high s hp => ⟨fun d => ?_, fun f => ?_⟩, fun s hp => ⟨fun d hd => ?_, fun f hf => ?_⟩⟩
  · have hu : s.bumped.putWord (recordOffset d + 0x12) (zeroLanes true high) = s.bumped.setOutcome d .none := by
      rw [State.putWord_outcome]
      exact if_pos (clearsWord_low high ⟨_, (ReqOutcome.encode_lt _).1⟩)
    obtain ⟨t, ht, hs⟩ := State.cbWrite_lands (r := 0) hp (hrec d) ((if_pos rfl).trans hu) hp rfl rfl
    exact ⟨t, by rw [exec_outcomeClear, State.cbCycle_enabled (zeroLanes_enabled _ _ rfl), ht], hs⟩
  · have hu : s.bumped.putWord (0x140 + f.val * 0x10) (zeroLanes true high) =
        { s.bumped with faults := upd s.bumped.faults f (fun _ => FaultRecord.empty) } := by
      rw [State.putWord_fault]
      exact if_pos (clearsWord_low high ⟨_, (FaultCode.encode_lt _).1⟩)
    obtain ⟨t, ht, hs⟩ := State.cbWrite_lands (r := 0) hp (hflt f) ((if_pos rfl).trans hu) hp rfl rfl
    refine ⟨t, ?_, hs⟩
    rw [exec_faultRecordClear, State.cbCycle_enabled (zeroLanes_enabled _ _ rfl), ← ht]
    rfl
  · have hu : s.bumped.putWord (recordOffset d + 0x12) (zeroLanes false true) = s.bumped := by
      rw [State.putWord_outcome]
      refine if_neg (Bool.eq_false_iff.mp ?_)
      exact clearsWord_high ⟨_, (ReqOutcome.encode_lt _).1⟩ ((ReqOutcome.encode_lt _).2 hd)
    obtain ⟨t, ht, hs⟩ := State.cbWrite_held (r := 0) hp (hrec d) ((if_pos rfl).trans hu)
    exact ⟨t, by rw [exec_outcomeClear, State.cbCycle_enabled (zeroLanes_enabled _ _ rfl), ht], hs⟩
  · have hu : s.bumped.putWord (0x140 + f.val * 0x10) (zeroLanes false true) = s.bumped := by
      rw [State.putWord_fault]
      refine if_neg (Bool.eq_false_iff.mp ?_)
      exact clearsWord_high ⟨_, (FaultCode.encode_lt _).1⟩ ((FaultCode.encode_lt _).2 hf)
    obtain ⟨t, ht, hs⟩ := State.cbWrite_held (r := 0) hp (hflt f) ((if_pos rfl).trans hu)
    refine ⟨t, ?_, hs⟩
    rw [exec_faultRecordClear, State.cbCycle_enabled (zeroLanes_enabled _ _ rfl), ← ht]
    rfl

/-! ### Settings -/

/-- A Setting written has its clamped value, whatever it sets off. -/
theorem State.putSetting_settings (s : State) (i : Nat) (b : Byte) : (s.putSetting i b).settings = s.settings.put i b := by
  unfold State.putSetting
  dsimp only
  split
  · exact (Keeps.refl _).ageReached.settings
  all_goals rfl

/-- The Settings after the enabled bytes of a pair have been written. -/
def Settings.putPair (t : Settings) (i : Nat) (l : Lanes) : Settings :=
  match l.lo, l.hi with
  | some b, some c => (t.put i b).put (i + 1) c
  | some b, none => t.put i b
  | none, some c => t.put (i + 1) c
  | none, none => t

theorem State.putWord_settings_settings (s : State) (p : Fin 4) (l : Lanes) :
    (s.putWord (0x10 + 2 * p.val) l).settings = s.settings.putPair (2 * p.val) l := by
  rw [State.putWord_settings]
  unfold Settings.putPair
  cases l.lo <;> cases l.hi <;> simp only [onByte, State.putSetting_settings]

/-- The Settings after a Control Block write while watching runs are those its owners leave. -/
theorem State.cbWrite_settings {s : State} (hp : s.phase = .running) (o : Nat) (l : Lanes) :
    (s.cbWrite o l 0).settings = (s.bumped.putWord o l).settings := by
  have hland : (s.bumped.putWord o l).landed o l = _ := ((s.bumped.putWord o l).landed_eq o l).choose_spec.1
  have hrun : ((s.bumped.putWord o l).landed o l).phase = s.phase := by
    rw [hland]
    refine (((Keeps.bumped s).takes.putWord o l).phase).resolve_right fun h => ?_
    rw [hp] at h; cases h.1
  have e : s.cbWrite o l 0 = s.finish ((s.bumped.putWord o l).landed o l) := by
    unfold State.cbWrite State.watching
    rw [if_pos (by simpa using hp), State.event_eq]
    rfl
  rw [e, State.finish_withMem (drainEnded_of_phase hrun)]
  show ((s.bumped.putWord o l).landed o l).settings = _
  rw [hland]

theorem clampTop_eq (b : Byte) (n : Nat) : clampTop b n = if n < b.toNat then BitVec.ofNat 8 n else b := rfl

theorem boolByte_nonzero (b : Byte) : boolByte (nonzero b) = if b = 0 then 0 else 1 := by
  unfold boolByte nonzero
  by_cases h : b = 0#8
  · rw [h]; rfl
  · rw [decide_eq_true h, if_pos rfl]
    exact (if_neg h).symm

/-- Settles O26: each byte is clamped as it is stored, whatever it sets off. -/
theorem settingsClampedAndTaken : Obligations.SettingsClampedAndTaken := by
  intro l s hp hl
  have hexec : ∀ p : Fin 4, exec (.settingsWrite p l 0) s = .next (s.cbWrite (0x10 + 2 * p.val) l 0) := fun p => by
    rw [exec_settingsWrite, State.cbCycle_enabled hl]
  have hset : ∀ p : Fin 4, (s.cbWrite (0x10 + 2 * p.val) l 0).settings = s.settings.putPair (2 * p.val) l := fun p => by
    rw [State.cbWrite_settings hp, State.putWord_settings_settings]; rfl
  refine ⟨⟨_, hexec 0, (hset 0).trans ?_⟩, ⟨_, hexec 1, (hset 1).trans ?_⟩, ⟨_, hexec 2, (hset 2).trans ?_⟩, ?_⟩
  · cases l with | mk lo hi => cases lo <;> cases hi <;> rfl
  · cases l with | mk lo hi =>
      cases lo <;> cases hi <;>
        simp only [Settings.putPair, Settings.put, boolByte_nonzero, clampTop_eq, Fin.val_one, Nat.mul_one, Nat.reduceAdd,
          BitVec.ofNat_eq_ofNat]
  · cases l with | mk lo hi => cases lo <;> cases hi <;> rfl
  · have hu : s.bumped.putWord (0x10 + 2 * (3 : Fin 4).val) l = { s.bumped with settings := s.settings.putPair 6 l } := by
      rw [State.putWord_settings]
      cases l with | mk lo hi => cases lo <;> cases hi <;> rfl
    obtain ⟨t, ht, heq, hlands⟩ := State.cbWrite_lands (r := 0) hp (by decide) ((if_pos rfl).trans hu) hp rfl rfl
    refine ⟨t, by rw [hexec 3, ht], ?_, hlands⟩
    rw [heq]
    cases l with | mk lo hi => cases lo <;> cases hi <;> rfl

/-- Settles O27: the write's effect is the expiry of every wait that has lasted the new limit. -/
theorem loweredWaiterLimitExpiresWaits : Obligations.LoweredWaiterLimitExpiresWaits := by
  intro b s hp hb
  have hput : s.settings.put 1 b = { s.settings with waiterLimit := b } := by
    show { s.settings with waiterLimit := clampTop b 100 } = _
    rw [clampTop_eq, if_neg (by omega)]
  have hu : s.bumped.putWord (0x10 + 2 * (0 : Fin 4).val) { lo := none, hi := some b } =
      State.expireWaiters { s.bumped with settings := { s.settings with waiterLimit := b } } := by
    rw [State.putWord_settings]
    show State.expireWaiters { s.bumped with settings := s.settings.put 1 b } = _
    rw [hput]
  obtain ⟨t, ht, heq, hlands⟩ := State.cbWrite_lands (r := 0) hp (by decide) ((if_pos rfl).trans hu) hp rfl rfl
  refine ⟨t, by rw [exec_settingsWrite, State.cbCycle_enabled rfl, ht], ?_, fun r => ?_, hlands⟩
  · rw [heq]; rfl
  · have hw : t.waiters[r] = match (s.waiters[r] : WaiterEntry).due (b.toNat * 100) with
        | some x => if x ≤ s.now.ms then (s.waiters[r] : WaiterEntry).expire else s.waiters[r]
        | none => s.waiters[r] := by
      rw [heq]
      exact updAll_get ..
    rw [hw]
    unfold WaiterEntry.due
    cases s.waiters[r] with
    | wait w =>
      dsimp only
      cases hst : w.status with
      | hold h =>
        dsimp only
        by_cases hc : w.exceeded = false ∧ 0 < b.toNat
        · rw [if_pos ⟨hc.1, by omega⟩]
          dsimp only [WaiterEntry.expire]
          rw [hst]
          exact if_congr ⟨fun h => ⟨hc.1, hc.2, h⟩, fun h => h.2.2⟩ rfl rfl
        · rw [if_neg (fun h => hc ⟨h.1, by omega⟩), if_neg (fun h => hc ⟨h.1, h.2.1⟩)]
      | _ => rfl
    | _ => rfl

/-! ### The class table -/

theorem classOfByte_none (b : Byte) : classOfByte b = none ↔ b.toNat % 4 = 0 := by
  have hlow : b.extractLsb' 0 2 = 0#2 ↔ b.toNat % 4 = 0 := by
    rw [← BitVec.toNat_inj]
    simp
  unfold classOfByte
  split_ifs with h0 h1 h2 <;> simp only [false_iff, true_iff] <;> rw [← hlow]
  all_goals assumption

/-- The entry of a requester after a host write of a class (R150). -/
def classTaken (r : Requester) (old b : Byte) : Byte := if r = 0 ∧ b.toNat % 4 = 0 then old else b

theorem State.putClass_eq (s : State) (r : Requester) (b : Byte) :
    s.putClass r b = { s with classes := upd s.classes r (fun x => classTaken r x b) } := by
  unfold State.putClass classTaken
  split <;> rename_i h <;> rw [classOfByte_none] at h
  · simp only [if_pos h]
    rw [upd_same _ _ rfl]
  · simp only [if_neg h]

/-- Settles O28: each byte is taken for its requester, the low one first. -/
theorem classTableTaken : Obligations.ClassTableTaken := by
  intro p l s hp hl
  have hpl := p.isLt
  let r0 : Requester := Fin.ofNat 8 (2 * p.val)
  let r1 : Requester := Fin.ofNat 8 (2 * p.val + 1)
  have hr0 : r0.val = 2 * p.val := by show 2 * p.val % 8 = _; omega
  have hr1 : r1.val = 2 * p.val + 1 := by show (2 * p.val + 1) % 8 = _; omega
  let cs : Vector Byte 8 := match l.lo with
    | some b => upd s.classes r0 (fun x => classTaken r0 x b)
    | none => s.classes
  let cs2 : Vector Byte 8 := match l.hi with
    | some b => upd cs r1 (fun x => classTaken r1 x b)
    | none => cs
  have hu : s.bumped.putWord (0x20 + 2 * p.val) l = { s.bumped with classes := cs2 } := by
    rw [State.putWord_classes]
    cases hlo : l.lo <;> cases hhi : l.hi <;> simp only [onByte, State.putClass_eq, cs2, cs, hlo, hhi] <;> rfl
  obtain ⟨t, ht, heq, hlands⟩ := State.cbWrite_lands (r := 0) hp (by omega) ((if_pos rfl).trans hu) hp rfl rfl
  have hcls : t.classes = cs2 := by rw [heq]
  refine ⟨t, by rw [exec_classTableWrite, State.cbCycle_enabled hl, ht], ?_, fun r => ?_, hlands⟩
  · rw [hcls]; exact heq
  · rw [hcls]
    have hcs : cs[r] = if r.val = 2 * p.val then (match l.lo with
        | some b => classTaken r s.classes[r] b
        | none => s.classes[r]) else s.classes[r] := by
      simp only [cs]
      cases l.lo with
      | none => simp only [ite_self]
      | some b =>
        dsimp only
        rw [upd_get]
        by_cases h : r0 = r
        · subst h; rw [if_pos rfl, if_pos hr0]
        · rw [if_neg h, if_neg fun e => h (Fin.ext (hr0.trans e.symm))]
    have hcs2 : cs2[r] = if r.val = 2 * p.val + 1 then l.hi.getD cs[r] else cs[r] := by
      simp only [cs2]
      cases l.hi with
      | none => simp only [Option.getD_none, ite_self]
      | some b =>
        dsimp only
        rw [upd_get]
        by_cases h : r1 = r
        · subst h
          rw [if_pos rfl, if_pos hr1]
          exact if_neg fun h => by have := congrArg Fin.val h.1; omega
        · rw [if_neg h, if_neg fun e => h (Fin.ext (hr1.trans e.symm))]
    rw [hcs2, hcs]
    by_cases h0 : r.val = 2 * p.val
    · rw [if_neg (by omega), if_pos h0, if_pos h0]; rfl
    · rw [if_neg h0, if_neg h0]

/-! ### Mount Record fields -/

/-- The host fields after the enabled bytes of a word have been written, the low one first. -/
def HostFields.putLanes (h : HostFields) (o : Nat) (l : Lanes) : HostFields :=
  match l.lo, l.hi with
  | some b, some c => (h.put o b).put (o + 1) c
  | some b, none => h.put o b
  | none, some c => h.put (o + 1) c
  | none, none => h

theorem State.putWord_host (s : State) (d : DriveNo) {o : Nat} (ho : 0 < o ∧ o < 0x10) (l : Lanes) :
    s.putWord (recordOffset d + o) l =
      { s with records := upd s.records d (fun m => { m with host := m.host.putLanes o l }) } := by
  rw [State.putWord_record s d (by omega)]
  unfold State.putRecordWord
  rw [if_neg (by omega), if_neg (by omega), if_pos ho.2]
  unfold HostFields.putLanes
  cases l.lo <;> cases l.hi
  · simp only [onByte]; rw [upd_same _ _ rfl]
  · rfl
  · rfl
  · simp only [onByte, State.putHost, State.updRecord, upd_upd]

/-- A host write of host fields, as a whole. -/
theorem State.cbWrite_host {s : State} (hp : s.phase = .running) (d : DriveNo) {o : Nat} (ho : 0 < o ∧ o < 0x10) (l : Lanes) :
    ∃ t, s.cbWrite (recordOffset d + o) l 0 = t ∧
      t = { s with
        now := s.eventStamp
        records := upd s.records d (fun m => { m with host := m.host.putLanes o l })
        answer := some (.done none)
        mem := t.mem } ∧
      s.Lands t (recordOffset d + o) l :=
  State.cbWrite_lands (r := 0) hp (by have := (recordOffset_lt d).2; omega)
    ((if_pos rfl).trans (State.putWord_host s.bumped d ho l)) hp rfl rfl

theorem clampRetry_eq (b : Byte) : clampRetry b = if b.toNat = 0 then 1 else if 8 < b.toNat then 8 else b := by
  unfold clampRetry
  exact if_congr ⟨fun h => by rw [h]; rfl, fun h => BitVec.eq_of_toNat_eq h⟩ rfl rfl

/-- Settles O29: the retry limit and write allow are one word. -/
theorem writeAllowTaken : Obligations.WriteAllowTaken := by
  intro d v q s hp
  obtain ⟨t, ht, heq, hlands⟩ := State.cbWrite_host hp d (o := 0x08) (by decide) { lo := q, hi := some v }
  refine ⟨t, by rw [exec_writeAllowWrite, State.cbCycle_enabled (by cases q <;> rfl), ht], ?_, hlands⟩
  rw [heq]
  cases q with
  | none => rfl
  | some b =>
    simp only [HostFields.putLanes, HostFields.put, Nat.reduceAdd, clampRetry_eq]
    rfl

/-- A word of the guard is held while the lock is LOCKED (R137). -/
theorem HostFields.putLanes_locked {h : HostFields} (hl : h.guardLock = true) {o : Nat} (ho : o = 0x0A ∨ o = 0x0C ∨ o = 0x0E)
    (l : Lanes) : h.putLanes o l = h := by
  have hput : ∀ x, (0x0A ≤ x ∧ x ≤ 0x0F) → ∀ b, h.put x b = h := fun x hx b => by
    have : x = 0x0A ∨ x = 0x0B ∨ x = 0x0C ∨ x = 0x0D ∨ x = 0x0E ∨ x = 0x0F := by omega
    unfold HostFields.put
    rcases this with rfl | rfl | rfl | rfl | rfl | rfl <;> simp only [hl, if_true]
  unfold HostFields.putLanes
  cases l.lo <;> cases l.hi <;> simp only [hput _ (show 0x0A ≤ o ∧ o ≤ 0x0F by omega), hput _ (show 0x0A ≤ o + 1 ∧ o + 1 ≤ 0x0F by omega)]

/-- The records after a write of a guard word: as they were under the lock, and changed by it elsewhere. -/
theorem guard_records (s : State) (d : DriveNo) {o : Nat} (ho : o = 0x0A ∨ o = 0x0C ∨ o = 0x0E) (l : Lanes)
    (f : HostFields → HostFields) (hf : ∀ h : HostFields, h.guardLock = false → h.putLanes o l = f h) :
    upd s.records d (fun m => { m with host := m.host.putLanes o l }) =
      if s.records[d].host.guardLock = true then s.records else upd s.records d (fun m => { m with host := f m.host }) := by
  by_cases h : s.records[d].host.guardLock = true
  · rw [if_pos h]
    exact upd_same _ _ (by rw [HostFields.putLanes_locked h ho])
  · rw [if_neg h]
    exact upd_congr _ _ (by rw [hf _ (Bool.eq_false_iff.mpr h)])

theorem clampTop_seven (b : Byte) : (clampTop b 7).toNat = min b.toNat 7 := by
  rw [clampTop_eq]
  split
  · rw [Nat.min_eq_right (by omega)]; rfl
  · rw [Nat.min_eq_left (by omega)]

/-- A guard word taken while the lock is OPEN (R31, R137, R148). -/
def guardTaken (g : GuardWord) (l : Lanes) (h : HostFields) : HostFields :=
  match g with
  | .extentEnd => { h with
      guardExtent := match l.lo with
        | some b => Fin.ofNat 8 (min b.toNat 7)
        | none => h.guardExtent
      guardHigh := match l.hi with
        | some b => decide (b ≠ 0)
        | none => h.guardHigh }
  | .complement => { h with
      guardComplement := match l.lo with
        | some b => decide (b ≠ 0)
        | none => h.guardComplement }
  | .exempt => { h with guardExempt := l.lo.getD h.guardExempt }

theorem putLanes_guard (g : GuardWord) {l : Lanes} (hc : g.covered l = true) {h : HostFields} (hlock : h.guardLock = false) :
    h.putLanes (guardOffset g) l = guardTaken g l h := by
  obtain ⟨lo, hi⟩ := l
  cases g with
  | extentEnd =>
    match lo, hi with
    | none, none => cases hc
    | none, some c => simp [HostFields.putLanes, HostFields.put, guardOffset, guardTaken, hlock, nonzero]
    | some b, none => simp [HostFields.putLanes, HostFields.put, guardOffset, guardTaken, hlock, clampTop_seven]
    | some b, some c => simp [HostFields.putLanes, HostFields.put, guardOffset, guardTaken, hlock, clampTop_seven, nonzero]
  | complement =>
    match lo, hi with
    | none, _ => cases hc
    | some b, some c => cases hc
    | some b, none => simp [HostFields.putLanes, HostFields.put, guardOffset, guardTaken, hlock, nonzero]
  | exempt =>
    match lo, hi with
    | none, _ => cases hc
    | some b, none => simp [HostFields.putLanes, HostFields.put, guardOffset, guardTaken, hlock]
    | some b, some c => simp [HostFields.putLanes, HostFields.put, guardOffset, guardTaken, hlock]

/-- The lock taken while it is OPEN, after the complement (R137). -/
def lockTaken (v : Byte) (c : Option Byte) (h : HostFields) : HostFields :=
  { h with
    guardComplement := match c with
      | some b => decide (b ≠ 0)
      | none => h.guardComplement
    guardLock := decide (v ≠ 0) }

theorem putLanes_lock (v : Byte) (c : Option Byte) {h : HostFields} (hlock : h.guardLock = false) :
    h.putLanes 0x0C { lo := c, hi := some v } = lockTaken v c h := by
  cases c <;> simp [HostFields.putLanes, HostFields.put, lockTaken, hlock, nonzero]

/-- Settles O30: a guard word by the lock. -/
theorem guardFieldsFollowLock : Obligations.GuardFieldsFollowLock := by
  refine ⟨fun d g l s hp hc => ?_, fun d v c s hp => ?_⟩
  · have hl : l.enabled = true := by
      obtain ⟨lo, hi⟩ := l
      cases g <;> cases lo <;> cases hi <;> first | rfl | cases hc
    obtain ⟨t, ht, heq, hlands⟩ := State.cbWrite_host hp d (o := guardOffset g) (by cases g <;> decide) l
    refine ⟨t, by rw [exec_guardFieldWrite, State.cbCycle_enabled hl, ht], ?_, by cases g <;> exact hlands⟩
    rw [heq, guard_records s d (o := guardOffset g) (by cases g <;> simp [guardOffset]) l (guardTaken g l)
      fun h hlock => putLanes_guard g hc hlock]
    cases g <;> rfl
  · obtain ⟨t, ht, heq, hlands⟩ := State.cbWrite_host hp d (o := 0x0C) (by decide) { lo := c, hi := some v }
    refine ⟨t, by rw [exec_guardLockWrite, State.cbCycle_enabled (by cases c <;> rfl), ht], ?_, hlands⟩
    rw [heq, guard_records s d (o := 0x0C) (by simp) _ (lockTaken v c) fun h hlock => putLanes_lock v c hlock]
    rfl

end Sys2Proof.Machine
end

section
/-! SUPPORT. Requests: how a request is decided, and what a FLUSH, FREEZE, THAW, MOUNT, RECLAIM and DISCARD do at the write. -/

namespace Sys2Proof.Machine

/-! ### The write of a request -/

/-- The request class written with a request is taken first (R127). -/
def State.classed (s : State) (d : DriveNo) (cls : Option Byte) : State :=
  s.updRecord d (fun m => { m with host := { m.host with requestClass := cls.getD m.host.requestClass } })

theorem State.classed_none (s : State) (d : DriveNo) : s.classed d none = s := by
  unfold State.classed State.updRecord
  rw [upd_same s.records d rfl]

theorem State.putWord_request (s : State) (d : DriveNo) (v : Byte) (cls : Option Byte) :
    s.putWord (recordOffset d) { lo := some v, hi := cls } = (s.classed d cls).request d v := by
  refine (State.putWord_record s d (o := 0) (by decide) _).trans ?_
  cases cls with
  | none => rw [State.classed_none]; rfl
  | some c => rfl

theorem exec_unknownRequest_eq (d : DriveNo) (v : Byte) (cls : Option Byte) (s : State) :
    exec (.unknownRequest d v cls 0) s = .next (s.cbWrite (recordOffset d) { lo := some v, hi := cls } 0) := by
  rw [exec_unknownRequest]
  unfold State.requestCycle
  rw [State.cbCycle_enabled rfl]

theorem exec_request (q : Request) (d : DriveNo) (cls : Option Byte) (s : State) :
    exec (q.command d cls 0) s = .next (s.cbWrite (recordOffset d) { lo := some q.byte, hi := cls } 0) := by
  cases q <;> exact exec_unknownRequest_eq d _ cls s

/-- A request byte written by the host: what its owner makes of it, and the bytes land. -/
theorem State.cbWrite_request {s : State} {d : DriveNo} {v : Byte} {cls : Option Byte} {u : State} (hp : s.phase = .running)
    (hu : (s.bumped.classed d cls).request d v = u) (hup : u.phase = .running) (hs : u.straps = s.straps) (hm : u.mem = s.mem) :
    ∃ t, s.cbWrite (recordOffset d) { lo := some v, hi := cls } 0 = t ∧ t = { u with answer := some (.done none), mem := t.mem } ∧
      s.Lands t (recordOffset d) { lo := some v, hi := cls } :=
  State.cbWrite_lands hp (by have := (recordOffset_lt d).2; omega)
    ((if_pos rfl).trans ((State.putWord_request s.bumped d v cls).trans hu)) hup hs hm

theorem Request.ofByte_byte (q : Request) : Request.ofByte q.byte = some q := by cases q <;> rfl

theorem Request.byte_ne_zero (q : Request) : q.byte ≠ 0#8 := by cases q <;> decide

theorem Request.ofByte_unknown {b : Byte} (h : 8 ≤ b.toNat) : Request.ofByte b = none := by
  unfold Request.ofByte
  split
  all_goals first
    | rfl
    | omega

/-- A request that the drive, a pending discard or the volume state turns away (R127, R128). -/
theorem State.request_refused {s : State} {d : DriveNo} {q : Request} {out : ReqOutcome}
    (h : (s.straps.drives ≤ d.val ∧ out = .driveAbsent) ∨
      (d.val < s.straps.drives ∧ s.records[d].pendingDiscard = true ∧ out = .busy) ∨
      (d.val < s.straps.drives ∧ s.records[d].pendingDiscard = false ∧ q.decided (s.volume d) = some out)) :
    s.request d q.byte = s.setOutcome d out := by
  unfold State.request
  rw [if_neg q.byte_ne_zero, q.ofByte_byte]
  dsimp only
  rcases h with ⟨h, rfl⟩ | ⟨h, hpd, rfl⟩ | ⟨h, hpd, hdec⟩
  · exact if_pos h
  · rw [if_neg (Nat.not_le.mpr h), hpd]; rfl
  · rw [if_neg (Nat.not_le.mpr h), hpd, hdec]; rfl

/-- A request that the volume state takes (R128). -/
theorem State.request_taken {s : State} {d : DriveNo} {q : Request} (h : d.val < s.straps.drives)
    (hpd : s.records[d].pendingDiscard = false) (hdec : q.decided (s.volume d) = none) :
    s.request d q.byte = s.take d q (requestClassOf s.records[d].host.requestClass) := by
  unfold State.request
  rw [if_neg q.byte_ne_zero, if_neg (Nat.not_le.mpr h), q.ofByte_byte]
  dsimp only
  rw [hpd, if_neg (by simp), hdec]

/-- The class written with a request leaves what decides the request. -/
theorem State.classed_record (s : State) (d : DriveNo) (cls : Option Byte) : (s.classed d cls).records[d] =
    { s.records[d] with host := { s.records[d].host with requestClass := cls.getD s.records[d].host.requestClass } } :=
  upd_get_same s.records d _

theorem State.classed_volume (s : State) (d : DriveNo) (cls : Option Byte) : (s.classed d cls).volume d = s.volume d := by
  unfold State.volume
  rw [State.classed_record]

/-- A change of one record after another of the same one. -/
theorem State.updRecord_updRecord (s : State) (d : DriveNo) (f g : MountRecord → MountRecord) :
    (s.updRecord d f).updRecord d g = s.updRecord d (fun m => g (f m)) := by
  unfold State.updRecord
  dsimp only
  rw [upd_upd]

theorem State.updRecord_congr {s : State} {d : DriveNo} {f g : MountRecord → MountRecord} (h : f s.records[d] = g s.records[d]) :
    s.updRecord d f = s.updRecord d g := by
  unfold State.updRecord
  rw [upd_congr s.records d h]

/-- Settles O31: the table by the volume state, and the refusals. -/
theorem requestsDecidedByVolumeState : Obligations.RequestsDecidedByVolumeState := by
  refine ⟨fun v => ?_, fun c d v cls out s hp hc => ?_⟩
  · cases v <;> exact ⟨rfl, fun q hq => by rcases hq with rfl | rfl <;> rfl, rfl, rfl, rfl, rfl⟩
  · have hu : (s.bumped.classed d cls).request d v = (s.bumped.classed d cls).setOutcome d out ∧
        exec c s = .next (s.cbWrite (recordOffset d) { lo := some v, hi := cls } 0) := by
      rcases hc with ⟨q, rfl, rfl, h⟩ | ⟨rfl, hv, h⟩
      · refine ⟨State.request_refused (s := s.bumped.classed d cls) ?_, exec_request q d cls s⟩
        rw [State.classed_record, State.classed_volume]
        exact h
      · refine ⟨?_, exec_unknownRequest_eq d v cls s⟩
        have h0 : v ≠ 0#8 := by rintro rfl; simp at hv
        unfold State.request
        rw [if_neg h0, Request.ofByte_unknown hv]
        rcases h with ⟨h, rfl⟩ | ⟨h, rfl⟩
        · exact if_pos h
        · exact if_neg (Nat.not_le.mpr h)
    obtain ⟨t, ht, heq, hlands⟩ := State.cbWrite_request hp hu.1 hp rfl rfl
    refine ⟨t, by rw [hu.2, ht], ?_, hlands⟩
    rw [heq]
    unfold State.classed State.setOutcome
    rw [State.updRecord_updRecord]
    rfl

/-! ### The first operation of a drive -/

/-- The volumes of a steady state with one record changed. -/
theorem State.Steady.noDrain_upd {s u : State} (h : s.Steady) {d : DriveNo} {f : MountRecord → MountRecord}
    (hr : u.records = upd s.records d f) (hf : (f s.records[d]).state ≠ .freezing ∧ (f s.records[d]).state ≠ .releasing)
    (e : DriveNo) : u.NoDrain e := by
  unfold State.NoDrain State.volume
  rw [hr, upd_get]
  split
  · rename_i hd; subst hd; exact hf
  · exact (h.2.1 e).2

/-- A PROBE asked of a drive without an operation (R76). -/
theorem State.requestProbe_first {s : State} {d : DriveNo} (hq : s.drives[d].queue = []) (cls : OpClass) :
    s.requestProbe d cls =
      { s with drives := upd s.drives d (fun v => { v with queue := [Op.asked .probe none 0 0 cls s.now] }) } := by
  have hop : s.drives[d].opOf none = none := Drive.opOf_none.mpr (by rw [hq]; simp)
  unfold State.requestProbe
  rw [hop]
  exact State.queueOp_first hq ..

/-- The record of a request that a volume begins, with its class (R127). -/
def MountRecord.begun (v : VolumeState) (kind : RequestKind) (m : MountRecord) : MountRecord :=
  { m with state := v, progress := some { kind := kind, cls := requestClassOf m.host.requestClass, phase2 := false } }

theorem State.beginRequest_eq (s : State) (d : DriveNo) (v : VolumeState) (kind : RequestKind) :
    s.beginRequest d v kind (requestClassOf s.records[d].host.requestClass) = s.updRecord d (MountRecord.begun v kind) :=
  State.updRecord_congr rfl

/-- Settles O32: the PROBE is the drive's first operation. -/
theorem mountTaken : Obligations.MountTaken := by
  intro d s hst hdr hv hpd hq hm
  let cls := requestClassOf s.records[d].host.requestClass
  let o : Op := Op.asked .probe none 0 0 cls s.eventStamp
  let u : State := { s.bumped with
    records := upd s.records d (fun m => { m.begun .mounting .mount with latched := m.host.volume })
    drives := upd s.drives d (fun v => { v with queue := [o] }) }
  have htake : s.bumped.takeMount d cls = u.schedule := by
    have hbegin : s.bumped.beginRequest d .mounting .mount cls = s.bumped.updRecord d (MountRecord.begun .mounting .mount) :=
      State.beginRequest_eq s.bumped ..
    unfold State.takeMount
    rw [hbegin, State.updRecord_updRecord, State.requestProbe_first (by exact hq)]
    rfl
  have hu : (s.bumped.classed d none).request d Request.mount.byte =
      { u with drives := upd s.drives d (fun v => v.startedFor o u.now) } := by
    rw [State.classed_none, State.request_taken (s := s.bumped) hdr hpd (by show Request.mount.decided (s.volume d) = none; rw [hv]; rfl)]
    show s.bumped.takeMount d cls = _
    rw [htake]
    exact State.started_schedule (u := u) (o := o) hst rfl hq hm rfl
      (hst.noDrain_upd (f := fun m => { m.begun .mounting .mount with latched := m.host.volume }) rfl ⟨nofun, nofun⟩)
  obtain ⟨t, ht, heq, hlands⟩ := State.cbWrite_request hst.1 hu hst.1 rfl rfl
  exact ⟨t, by rw [← ht]; exact exec_request .mount d none s, heq, hlands⟩

/-- Settles O37: a RECLAIM without a stamp or a diskette is refused, and its PROBE is the drive's first operation elsewhere. -/
theorem reclaimProbesStamp : Obligations.ReclaimProbesStamp := by
  intro d s hp hdr hpd hv
  let cls := requestClassOf s.records[d].host.requestClass
  have hreq : (s.bumped.classed d none).request d Request.reclaim.byte = s.bumped.takeReclaim d cls := by
    rw [State.classed_none, State.request_taken (s := s.bumped) hdr hpd
      (by show Request.reclaim.decided (s.volume d) = none; rw [hv]; rfl)]
    rfl
  refine ⟨fun hno => ?_, fun hst hstamp hm hq => ?_⟩
  · have htake : s.bumped.takeReclaim d cls =
        s.bumped.setOutcome d (if s.records[d].stamp = none then .stampUnknown else .notReady) := by
      unfold State.takeReclaim
      by_cases hs : s.records[d].stamp = none
      · rw [if_pos hs]; exact if_pos hs
      · rw [if_neg hs]
        exact (if_neg hs).trans (if_pos (hno.resolve_left hs))
    obtain ⟨t, ht, heq, hlands⟩ := State.cbWrite_request hp (hreq.trans htake) hp rfl rfl
    refine ⟨t, by rw [← ht]; exact exec_request .reclaim d none s, ?_, hlands⟩
    rw [heq]
    have hrec : s.bumped.setOutcome d (if s.records[d].stamp = none then .stampUnknown else .notReady) =
        s.bumped.updRecord d (fun m => { m with outcome := if m.stamp = none then .stampUnknown else .notReady }) :=
      State.updRecord_congr rfl
    rw [hrec]
    rfl
  · let o : Op := Op.asked .probe none 0 0 cls s.eventStamp
    let u : State := { s.bumped with
      records := upd s.records d (MountRecord.begun .reclaiming .reclaim)
      drives := upd s.drives d (fun v => { v with queue := [o] }) }
    have htake : s.bumped.takeReclaim d cls = u.schedule := by
      have hbegin : s.bumped.beginRequest d .reclaiming .reclaim cls =
          s.bumped.updRecord d (MountRecord.begun .reclaiming .reclaim) := State.beginRequest_eq s.bumped ..
      unfold State.takeReclaim
      rw [hbegin, State.requestProbe_first (by exact hq)]
      exact (if_neg hstamp).trans (if_neg (by show s.drives[d].media ≠ .noMedia; rw [hm]; simp))
    have hu : (s.bumped.classed d none).request d Request.reclaim.byte =
        { u with drives := upd s.drives d (fun v => v.startedFor o u.now) } := by
      rw [hreq, htake]
      exact State.started_schedule (u := u) (o := o) hst rfl hq hm rfl
        (hst.noDrain_upd (f := MountRecord.begun .reclaiming .reclaim) rfl ⟨nofun, nofun⟩)
    obtain ⟨t, ht, heq, hlands⟩ := State.cbWrite_request hp hu hp rfl rfl
    exact ⟨t, by rw [← ht]; exact exec_request .reclaim d none s, heq, hlands⟩

/-- Settles O36: the discard is marked pending. -/
theorem discardWaitsForSector : Obligations.DiscardWaitsForSector := by
  intro d s hp hdr hpd hv hw
  have hu : (s.bumped.classed d none).request d Request.discard.byte =
      s.bumped.updRecord d (fun m => { m with pendingDiscard := true }) := by
    rw [State.classed_none, State.request_taken (s := s.bumped) hdr hpd
      (by show Request.discard.decided (s.volume d) = none; rcases hv with e | e | e <;> rw [e] <;> rfl)]
    show s.bumped.takeDiscard d = _
    exact if_pos hw
  obtain ⟨t, ht, hs⟩ := State.cbWrite_request hp hu hp rfl rfl
  exact ⟨t, by rw [← ht]; exact exec_request .discard d none s, hs⟩

/-! ### Clean volumes -/

/-- The slots with data to write are none exactly while the dirty count is 0 (R59). -/
theorem State.unwrittenSlots_nil {s : State} {d : DriveNo} (h : s.dirtyCount d = 0) : s.unwrittenSlots d = [] := by
  unfold State.dirtyCount at h
  rw [List.length_eq_zero_iff, List.filter_eq_nil_iff] at h
  unfold State.unwrittenSlots State.slotsWhere
  rw [List.filter_eq_nil_iff]
  intro k hk
  rw [List.mem_range] at hk
  rw [State.slot_eq_getElem hk]
  exact h _ (List.getElem_mem hk)

/-- The volume with something to be done is given it first. -/
theorem State.nextStep_volume {s t : State} {d : DriveNo} (hs : s.volumeStep d = some t)
    (ho : ∀ e : DriveNo, e ≠ d → s.volumeStep e = none) : s.nextStep = some t := by
  have h1 : driveNos.findSome? s.volumeStep = some t := by
    have key : ∀ e : DriveNo, s.volumeStep e = if e = d then some t else none := by
      intro e; split
      · rename_i he; subst he; exact hs
      · rename_i he; exact ho e he
    unfold driveNos
    simp only [List.findSome?_cons, List.findSome?_nil, key]
    clear hs ho key
    fin_cases d <;> rfl
  unfold State.nextStep
  rw [h1]
  rfl

/-- A FREEZE of a volume without dirty slots completes in the schedule of its own event (R132, R145). -/
theorem State.takeFreeze_clean {s u : State} {d : DriveNo} (hst : s.Steady) (hp : u.phase = s.phase) (hdr : u.drives = s.drives)
    (hv : ∀ e : DriveNo, e ≠ d → u.volume e = s.volume e) (hc : u.dirtyCount d = 0) (cls : OpClass) :
    u.takeFreeze d cls = (u.beginRequest d .freezing .freeze cls).endRequest d .frozen .done := by
  unfold State.takeFreeze
  rw [State.unwrittenSlots_nil hc]
  have hvol : ∀ e : DriveNo, e ≠ d → (u.beginRequest d .freezing .freeze cls).volume e = s.volume e := fun e he => by
    rw [← hv e he]
    exact congrArg MountRecord.state (upd_get_ne u.records _ (Ne.symm he))
  refine State.schedule_of_nextStep (State.nextStep_volume (d := d) ?_ fun e he => ?_) ?_
  · have hfreezing : (u.beginRequest d .freezing .freeze cls).volume d = .freezing :=
      congrArg MountRecord.state (upd_get_same u.records d _)
    show State.volumeStep (u.beginRequest d .freezing .freeze cls) d = _
    unfold State.volumeStep
    rw [hfreezing]
    exact if_pos hc
  · refine State.volumeStep_none ?_
    show (u.beginRequest d .freezing .freeze cls).NoDrain e
    unfold State.NoDrain
    rw [hvol e he]
    exact (hst.2.1 e).2
  · refine hst.sameDrives hp hdr fun e => ?_
    by_cases he : e = d
    · subst he
      have : ((u.beginRequest e .freezing .freeze cls).endRequest e .frozen .done).volume e = .frozen :=
        congrArg MountRecord.state (upd_get_same _ e _)
      unfold State.NoDrain
      rw [this]
      exact ⟨by simp, by simp⟩
    · have : ((u.beginRequest d .freezing .freeze cls).endRequest d .frozen .done).volume e = s.volume e := by
        rw [← hvol e he]
        exact congrArg MountRecord.state (upd_get_ne _ _ (Ne.symm he))
      unfold State.NoDrain
      rw [this]
      exact (hst.2.1 e).2

/-- Settles O33: each completes at its write. -/
theorem cleanFlushFreezeAndThawDone : Obligations.CleanFlushFreezeAndThawDone := by
  have htaken : ∀ (q : Request) (d : DriveNo) (cls : Option Byte) (s : State), d.val < s.straps.drives →
      s.records[d].pendingDiscard = false → q.decided (s.volume d) = none →
      ∃ c, (s.bumped.classed d cls).request d q.byte = (s.bumped.classed d cls).take d q c := fun q d cls s hdr hpd hq =>
    ⟨_, State.request_taken (s := s.bumped.classed d cls) hdr (by rw [State.classed_record]; exact hpd)
      (by rw [State.classed_volume]; exact hq)⟩
  refine ⟨fun d cls s hp hdr hv hpd hc => ?_, fun d cls s hst hdr hv hpd hc => ?_, fun d cls s hp hdr hv hpd => ?_⟩
  · obtain ⟨c, hu⟩ := htaken .flush d cls s hdr hpd (by rw [hv]; rfl)
    have htake : (s.bumped.classed d cls).take d .flush c = (s.bumped.classed d cls).setOutcome d .done :=
      if_pos (State.unwrittenSlots_nil (s := s.bumped.classed d cls) hc)
    obtain ⟨t, ht, heq, hlands⟩ := State.cbWrite_request hp (hu.trans htake) hp rfl rfl
    refine ⟨t, by rw [← ht]; exact exec_request .flush d cls s, ?_, hlands⟩
    rw [heq]
    unfold State.classed State.setOutcome
    rw [State.updRecord_updRecord]
    rfl
  · obtain ⟨c, hu⟩ := htaken .freeze d cls s hdr hpd (by rw [hv]; rfl)
    have htake : (s.bumped.classed d cls).take d .freeze c = _ :=
      State.takeFreeze_clean (s := s) (u := s.bumped.classed d cls) hst rfl rfl
        (fun e he => congrArg MountRecord.state (upd_get_ne s.records _ (Ne.symm he))) hc c
    obtain ⟨t, ht, heq, hlands⟩ := State.cbWrite_request hst.1 (hu.trans htake) hst.1 rfl rfl
    refine ⟨t, by rw [← ht]; exact exec_request .freeze d cls s, ?_, hlands⟩
    rw [heq]
    unfold State.classed State.beginRequest State.endRequest
    rw [State.updRecord_updRecord, State.updRecord_updRecord]
    rfl
  · obtain ⟨c, hu⟩ := htaken .thaw d cls s hdr hpd (by rcases hv with e | e <;> rw [e] <;> rfl)
    have htake : (s.bumped.classed d cls).take d .thaw c = (s.bumped.classed d cls).endRequest d .mounted .done := rfl
    obtain ⟨t, ht, heq, hlands⟩ := State.cbWrite_request hp (hu.trans htake) hp rfl rfl
    refine ⟨t, by rw [← ht]; exact exec_request .thaw d cls s, ?_, hlands⟩
    rw [heq]
    unfold State.classed State.endRequest
    rw [State.updRecord_updRecord]
    rfl

/-! ### A FLUSH with a slot to write -/

/-- A WRITE asked for a request, of a slot without an operation on a drive without one (R141, R143). -/
theorem State.requestWriteFor_first {s : State} {k : Nat} {key : Key} (hk : (s.slot k).key = some key) (hlt : k < s.slots.length)
    (hq : s.drives[key.drive].queue = []) (reason : Reason) (cls : OpClass) : s.requestWriteFor k reason cls =
      { s with
        slots := s.slots.modify k (fun t => { t with writeFailed := false })
        drives := upd s.drives key.drive (fun v => { v with
          queue := [Op.asked (.write k (s.slot k).generation (decide (reason = .evict))) (some reason) key.cylinder key.head cls
            s.now] }) } := by
  have hlink : s.link k = none := by
    unfold State.link
    rw [hk]
    exact Drive.opOf_none.mpr (by rw [hq]; simp)
  have hslot : (s.updSlot k (fun t => { t with writeFailed := false })).slot k = { s.slot k with writeFailed := false } :=
    State.slot_updSlot_same hlt
  unfold State.requestWriteFor
  rw [hlink]
  dsimp only
  rw [if_neg (by simp), State.requestWrite_first (s := s.updSlot k (fun t => { t with writeFailed := false })) (key := key)
    (by rw [hslot]; exact hk) hq, hslot]
  rfl

/-- Settles O34: the WRITE is the drive's first operation. -/
theorem flushWritesDirtySlot : Obligations.FlushWritesDirtySlot := by
  intro d k key s hst hdr hv hpd hset hk hkey hkd hres hq hm
  subst hkd
  let cls := requestClassOf s.records[key.drive].host.requestClass
  let o : Op := Op.asked (.write k (s.slot k).generation false) (some .flush) key.cylinder key.head cls s.eventStamp
  let u : State := { s.bumped with
    records := upd s.records key.drive
      (fun m => { m.begun .flushing .flush with flushSet := [{ slot := k, underWay := false }], flushFailed := false })
    slots := s.slots.modify k (fun x => { x with writeFailed := false })
    drives := upd s.drives key.drive (fun v => { v with queue := [o] }) }
  have htake : s.bumped.takeFlush key.drive cls = u.schedule := by
    have hbegin : s.bumped.beginRequest key.drive .flushing .flush cls =
        s.bumped.updRecord key.drive (MountRecord.begun .flushing .flush) := State.beginRequest_eq s.bumped ..
    unfold State.takeFlush
    rw [show s.bumped.unwrittenSlots key.drive = [k] from hset]
    dsimp only
    rw [if_neg (by simp), hbegin, State.updRecord_updRecord, List.map_cons, List.map_nil,
      show (s.bumped.slot k).state = .resident from hres, List.foldl_cons, List.foldl_nil,
      State.requestWriteFor_first (key := key) (by exact hkey) (by exact hk) (by exact hq)]
    rfl
  have hu : (s.bumped.classed key.drive none).request key.drive Request.flush.byte =
      { u with drives := upd s.drives key.drive (fun v => v.startedFor o u.now) } := by
    rw [State.classed_none, State.request_taken (s := s.bumped) hdr hpd
      (by show Request.flush.decided (s.volume key.drive) = none; rw [hv]; rfl)]
    show s.bumped.takeFlush key.drive cls = _
    rw [htake]
    exact State.started_schedule (u := u) (o := o) hst rfl hq hm rfl (hst.noDrain_upd
      (f := fun m => { m.begun .flushing .flush with flushSet := [{ slot := k, underWay := false }], flushFailed := false })
      rfl ⟨nofun, nofun⟩)
  obtain ⟨t, ht, heq, hlands⟩ := State.cbWrite_request hst.1 hu hst.1 rfl rfl
  exact ⟨t, by rw [← ht]; exact exec_request .flush key.drive none s, heq, hlands⟩

end Sys2Proof.Machine
end

section
/-! SUPPORT. Slots that become FREE together, release events and their grants, and the RELEASE and DISCARD that free a drive's slots. -/

namespace Sys2Proof.Machine

/-! ### Slots that become FREE together -/

/-- A slot entry that has become FREE (R35). -/
def Slot.freed (t : Slot) : Slot :=
  { state := .free, key := none, generation := t.generation, sectors := [], dirtySince := none, writeFailed := false, yields := 0,
    active := none, pendingWrite := none }

/-- Freed slots leave the recency order and join the free list in their order (R46, R47). -/
theorem State.freeSlots_eq (s : State) (ks : List Nat) : s.freeSlots ks =
    { s with
      slots := ks.foldl (fun l k => l.modify k Slot.freed) s.slots
      recency := ks.foldl (fun r k => r.erase k) s.recency
      freeList := s.freeList ++ ks } := by
  induction ks generalizing s with
  | nil => unfold State.freeSlots; rw [List.append_nil]; rfl
  | cons k ks ih =>
    have hcons : s.freeSlots (k :: ks) = (s.freeSlot k).freeSlots ks := rfl
    rw [hcons, ih]
    have hlist : (s.freeSlot k).freeList ++ ks = s.freeList ++ k :: ks := List.append_assoc s.freeList [k] ks
    rw [hlist]
    rfl

theorem State.length_freeSlots (s : State) (ks : List Nat) : (s.freeSlots ks).slots.length = s.slots.length := by
  induction ks generalizing s with
  | nil => rfl
  | cons k ks ih => exact (ih (s.freeSlot k)).trans (List.length_modify ..)

/-- A slot after some have become FREE. -/
theorem State.slot_freeSlots (s : State) (ks : List Nat) {j : Nat} (hj : j < s.slots.length) :
    (s.freeSlots ks).slot j = if j ∈ ks then (s.slot j).freed else s.slot j := by
  induction ks generalizing s with
  | nil => rfl
  | cons k ks ih =>
    have hone : (s.freeSlot k).slot j = if k = j then (s.slot j).freed else s.slot j := by
      refine (slot_modify s.slots k j Slot.freed).trans (if_congr ?_ rfl rfl)
      exact ⟨fun h => h.1, fun h => ⟨h, hj⟩⟩
    have hlen : j < (s.freeSlot k).slots.length := by rw [State.slots_freeSlot, List.length_modify]; exact hj
    have hcons : s.freeSlots (k :: ks) = (s.freeSlot k).freeSlots ks := rfl
    rw [hcons, ih _ hlen, hone]
    by_cases hk : k = j
    · subst hk
      rw [if_pos rfl, if_pos List.mem_cons_self]
      split <;> rfl
    · simp only [if_neg hk, List.mem_cons, show j ≠ k from Ne.symm hk, false_or]

/-- A key that no slot holds is held by none after some have become FREE. -/
theorem State.lookup_freed {s u : State} {ks : List Nat} {key : Key} (h : s.lookup key = none)
    (hu : u.slots = (s.freeSlots ks).slots) : u.lookup key = none := by
  have hslot : ∀ j, u.slot j = (s.freeSlots ks).slot j := fun j => by unfold State.slot; rw [hu]
  have hlen : u.slots.length = s.slots.length := by rw [hu, State.length_freeSlots]
  refine List.findIdx?_eq_none_iff.mpr fun x hx => ?_
  obtain ⟨j, hj, rfl⟩ := List.mem_iff_getElem.mp hx
  rw [← State.slot_eq_getElem hj, hslot, State.slot_freeSlots s ks (by omega)]
  split
  · rfl
  · by_cases hf : (s.slot j).state = .free
    · simp [hf]
    · simp [State.lookup_none h (by omega) hf]

/-! ### Release events -/

theorem State.slotWaiters_nil {s : State} (h : s.NoSlotWaits) : s.slotWaiters = [] := by
  unfold State.slotWaiters
  rw [List.filterMap_eq_nil_iff.mpr fun r _ => by rw [h r]; rfl]
  rfl

/-- Slots that become FREE where no requester waits for one are granted to none (R48). -/
theorem State.releaseEvent_quiet {s : State} (h : s.NoSlotWaits) (skip : Option DriveNo) : s.releaseEvent skip = s := by
  unfold State.releaseEvent
  rw [State.slotWaiters_nil h]
  rfl

theorem State.released_quiet {s : State} {ks : List Nat} (h : s.NoSlotWaits ∨ ks = []) (skip : Option DriveNo) :
    s.released ks skip = s := by
  unfold State.released
  split
  · rfl
  · rename_i hk
    exact State.releaseEvent_quiet (h.resolve_right hk) skip

/-- The one requester that waits for a slot (R48). -/
theorem State.slotWaiters_single {s : State} {r0 : Requester} {w : Waiter} (h0 : s.slotWait r0 = some w)
    (h : ∀ r : Requester, r ≠ r0 → s.slotWait r = none) : s.slotWaiters = [(r0, w)] := by
  have key : ∀ r : Requester, (s.slotWait r).map (fun x => (r, x)) = if r = r0 then some (r0, w) else none := fun r => by
    by_cases hr : r = r0
    · subst hr; rw [h0, if_pos rfl]; rfl
    · rw [h r hr, if_neg hr]; rfl
  unfold State.slotWaiters requesters
  simp only [List.filterMap_cons, List.filterMap_nil, key]
  clear key h0 h
  fin_cases r0 <;> rfl

/-- One slot is granted to the one requester that waits (R48). -/
theorem State.releaseEvent_grants {s : State} {r0 : Requester} {w : Waiter} {k : Nat} {skip : Option DriveNo}
    (h0 : s.slotWait r0 = some w) (h : ∀ r : Requester, r ≠ r0 → s.slotWait r = none) (hl : s.lookup w.key = none)
    (hv : (s.volume w.key.drive).admits w.write = true) (hs : skip ≠ some w.key.drive) (hk : s.victim = some k) :
    s.releaseEvent skip =
      { s.assign k w.key w.cls with waiters := updAll s.waiters (fun e => e.granted w.key) } := by
  have hcls : s.keyClass w.key w.cls = w.cls := by
    unfold State.keyClass
    rw [State.slotWaiters_single h0 h]
    simp only [List.filter_cons, List.filter_nil, decide_true, if_true, List.foldl_cons, List.foldl_nil, OpClass.max_self]
  unfold State.releaseEvent
  rw [State.slotWaiters_single h0 h]
  unfold State.grants
  rw [if_neg (by rw [h0, hl, hv]; simp [hs]), hk]
  dsimp only
  unfold State.grants State.grantSlot
  rw [hcls]

theorem WaiterEntry.slotWait?_wait (w : Waiter) :
    (WaiterEntry.wait w).slotWait? = if w.status = .hold .slotWait then some w else none := rfl

theorem WaiterEntry.slotWait_failDrive {e : WaiterEntry} (h : e.slotWait? = none) (d : DriveNo) (c : WaitFailure) :
    (e.failDrive d c).slotWait? = none := by
  cases e with
  | wait w =>
    unfold WaiterEntry.failDrive
    dsimp only
    split
    · split
      · exact h
      · rfl
    · exact h
  | _ => exact h

/-- Waits that are no slot-waits stay so when a drive's waits fail. -/
theorem State.slotWait_failed {s u : State} {d : DriveNo} {c : WaitFailure}
    (hu : u.waiters = updAll s.waiters (fun e => e.failDrive d c)) {r : Requester} (h : s.slotWait r = none) : u.slotWait r = none := by
  unfold State.slotWait
  rw [hu, updAll_get]
  exact WaiterEntry.slotWait_failDrive h d c

/-! ### The schedule where a volume or a drive has one thing to be done -/

/-- A queue whose only operation waits is given it. -/
theorem State.selectStep_single {s : State} {d : DriveNo} {o : Op} (hq : s.drives[d].queue = [o]) (ho : o.phase = .queued)
    (hm : s.drives[d].media ≠ .noMedia) :
    s.selectStep d = some ((s.choose d o (s.drives[d].sweepTo o.cylinder)).motorStage d) := by
  have hcur : s.drives[d].currentOp = none := by unfold Drive.currentOp; rw [hq]; simp [Op.isCurrent, ho]
  unfold State.selectStep
  dsimp only
  rw [hcur, Drive.choice_single hq ho]
  exact if_neg hm

/-- The drive after the choice of its only operation (R81, R116). -/
theorem State.choose_single {s : State} {d : DriveNo} {o : Op} (hq : s.drives[d].queue = [o]) (b : Bool) : s.choose d o b =
    { s with drives := upd s.drives d (fun v =>
      { v.gain with inward := b, move := .idle, moved := false, queue := [{ o with phase := .seeking }] }) } := by
  unfold State.choose State.updDrive
  refine congrArg (fun ds => ({ s with drives := ds } : State)) (upd_congr s.drives d ?_)
  rw [hq]
  simp [Drive.gain]

/-- A drive at rest with a stopped motor that has been given an operation begins its work (R81, R114). -/
theorem State.started_nextStep {s u : State} (h : s.Steady) (hp : u.phase = s.phase) {d : DriveNo} {o : Op}
    (hm : s.drives[d].media = .stopped)
    (hd : u.drives = upd s.drives d (fun v =>
      { v with queue := [{ o with enqueued := u.now, promoted := u.now, phase := .queued }] }))
    (hv : ∀ e : DriveNo, u.NoDrain e) :
    u.nextStep = some { u with drives := upd s.drives d (fun v => v.startedFor o u.now) } := by
  have hg : u.drives[d] = { s.drives[d] with queue := [{ o with enqueued := u.now, promoted := u.now, phase := .queued }] } := by
    rw [hd, upd_get_same]
  refine State.nextStep_select (d := d) (hp.trans h.1) hv ?_ fun e he => ?_
  · rw [State.selectStep_single (o := { o with enqueued := u.now, promoted := u.now, phase := .queued }) (by rw [hg]) rfl
      (by rw [hg]; show s.drives[d].media ≠ .noMedia; rw [hm]; simp), State.choose_single (by rw [hg])]
    refine congrArg some ?_
    unfold State.motorStage
    dsimp only
    rw [upd_get_same, hg]
    simp only [Drive.gain, hm]
    unfold State.updDrive
    dsimp only
    rw [upd_upd, hd, upd_upd]
    rfl
  · have hge : u.drives[e] = s.drives[e] := by rw [hd, upd_get_ne _ _ (Ne.symm he)]
    exact State.selectStep_steady (by rw [hge]; exact (h.2.1 e).1.1)

/-- One thing after another, each if there is one, up to a steady state. -/
theorem State.schedule_after {u v w : State} (h : u = v ∨ u.nextStep = some v) (hv : v = w ∨ v.nextStep = some w) (hw : w.Steady) :
    u.schedule = w := by
  rcases h with rfl | h
  · rcases hv with rfl | hv
    · exact hw.schedule
    · exact State.schedule_of_nextStep hv hw
  · rcases hv with rfl | hv
    · exact State.schedule_of_nextStep h hw
    · rw [State.schedule_step2 h hv hw.nextStep]
      exact State.notices_steady fun e => (hw.2.1 e).1

/-! ### RELEASE and DISCARD of a drive without an operation -/

/-- The record of a volume whose slots a RELEASE or a DISCARD has freed (R126, R133, R135). -/
def MountRecord.emptied (m : MountRecord) : MountRecord :=
  { m with
    state := .unmounted
    outcome := .done
    progress := none
    flushSet := []
    flushFailed := false
    pendingDiscard := false
    host := { m.host with guardLock := false } }

/-- A drive's slots freed and its volume UNMOUNTED, with the waits that it leaves. -/
def State.emptied (s : State) (d : DriveNo) (ws : Vector WaiterEntry 8) : State :=
  { s with
    records := upd s.records d MountRecord.emptied
    geometry := upd s.geometry d (fun _ => none)
    slots := (s.freeSlots (s.slotsOf d)).slots
    recency := (s.slotsOf d).foldl (fun r k => r.erase k) s.recency
    freeList := s.freeList ++ s.slotsOf d
    waiters := ws }

/-- The operations dropped of a drive that has none. -/
theorem State.dropOps_nil {s : State} {d : DriveNo} (hq : s.drives[d].queue = []) (q : Op → Bool) : s.dropOps d q = s := by
  unfold State.dropOps
  rw [hq]
  unfold State.updDrive
  have hkept : ∀ v : Drive, v.queue = [] → { v with queue := v.queue.filter (fun o => !q o) } = v := fun v h => by
    rw [h, List.filter_nil, ← h]
  exact congrArg (fun ds => ({ s with drives := ds } : State)) (upd_same s.drives d (hkept _ hq))

theorem State.discardNow_empty {s : State} {d : DriveNo} (hq : s.drives[d].queue = []) : s.discardNow d =
    (s.emptied d (updAll s.waiters (fun e => e.failDrive d .noVolume))).released (s.slotsOf d) (some d) := by
  unfold State.discardNow
  dsimp only
  rw [State.dropOps_nil hq]
  refine congrArg (fun t : State => t.released (s.slotsOf d) (some d)) ?_
  unfold State.emptied
  rw [State.freeSlots_eq]
  unfold State.failDriveWaiters State.unmount State.setOutcome State.updRecord
  dsimp only
  rw [upd_upd]
  rfl

theorem State.releaseDone_eq (s : State) (d : DriveNo) : s.releaseDone d = (s.emptied d s.waiters).released (s.slotsOf d) none := by
  unfold State.releaseDone
  dsimp only
  refine congrArg (fun t : State => t.released (s.slotsOf d) none) ?_
  unfold State.emptied
  rw [State.freeSlots_eq]
  unfold State.unmount State.setOutcome State.updRecord
  dsimp only
  rw [upd_upd]
  rfl

/-- The record's progress before it is emptied leaves no trace. -/
theorem State.emptied_updRecord (s : State) (d : DriveNo) (ws : Vector WaiterEntry 8) {f : MountRecord → MountRecord}
    (h : ∀ m, (f m).emptied = m.emptied) : (s.updRecord d f).emptied d ws = s.emptied d ws := by
  have hslots : ((s.updRecord d f).freeSlots (s.slotsOf d)).slots = (s.freeSlots (s.slotsOf d)).slots := by
    rw [State.freeSlots_eq, State.freeSlots_eq]
    rfl
  have hrecs : upd (upd s.records d f) d MountRecord.emptied = upd s.records d MountRecord.emptied := by
    rw [upd_upd, upd_congr s.records d (g := MountRecord.emptied) (h _)]
  unfold State.emptied
  rw [show (s.updRecord d f).slotsOf d = s.slotsOf d from rfl, hslots, show (s.updRecord d f).records = upd s.records d f from rfl,
    hrecs]
  rfl

/-- A RELEASE of a clean volume and a drive without an operation is carried out in the schedule of its own event, in both its
phases (R133). -/
theorem State.releasing_nextStep {s : State} {d : DriveNo} (hst : s.Steady) (hq : s.drives[d].queue = []) (hc : s.dirtyCount d = 0)
    (cls : OpClass) : (s.beginRequest d .releasing .release cls).nextStep =
      some ((s.emptied d s.waiters).released (s.slotsOf d) none) := by
  have hrec : (s.beginRequest d .releasing .release cls).records[d] =
      { s.records[d] with state := .releasing, progress := some { kind := .release, cls := cls, phase2 := false } } :=
    upd_get_same s.records d _
  have hvol : (s.beginRequest d .releasing .release cls).volume d = .releasing := congrArg MountRecord.state hrec
  refine State.nextStep_volume (d := d) ?_ fun e he => State.volumeStep_none ?_
  · have hout : (s.beginRequest d .releasing .release cls).writingOut d = true := by
      unfold State.writingOut
      rw [hvol, hrec]
      rfl
    have hdone : (s.beginRequest d .releasing .release cls).releasePhase2 d =
        (s.emptied d s.waiters).released (s.slotsOf d) none := by
      unfold State.releasePhase2
      rw [State.dropOps_nil (by exact hq)]
      dsimp only
      refine (if_pos (by exact hq)).trans ?_
      unfold State.beginRequest
      rw [State.updRecord_updRecord, State.releaseDone_eq]
      exact congrArg (fun t : State => t.released (s.slotsOf d) none) (State.emptied_updRecord s d s.waiters fun m => rfl)
    unfold State.volumeStep
    rw [hvol]
    dsimp only
    rw [hout, if_pos rfl, hdone]
    exact if_pos hc
  · have : (s.beginRequest d .releasing .release cls).volume e = s.volume e :=
      congrArg MountRecord.state (upd_get_ne s.records _ (Ne.symm he))
    unfold State.NoDrain
    rw [this]
    exact (hst.2.1 e).2

/-- The waits that a RELEASE or a DISCARD leaves of its drive (R72). -/
def Request.leaves (q : Request) (d : DriveNo) (ws : Vector WaiterEntry 8) : Vector WaiterEntry 8 :=
  if q = .discard then updAll ws (fun e => e.failDrive d .noVolume) else ws

/-- Either request of a drive without an operation comes to a release event of the drive's slots. -/
theorem State.request_empties {s : State} {d : DriveNo} {q : Request} (hst : s.Steady) (hdr : d.val < s.straps.drives)
    (hpd : s.records[d].pendingDiscard = false) (hq : s.drives[d].queue = [])
    (h : (q = .release ∧ (s.volume d = .mounted ∨ s.volume d = .frozen) ∧ s.dirtyCount d = 0) ∨
      (q = .discard ∧ (s.volume d = .mounted ∨ s.volume d = .frozen ∨ s.volume d = .lost) ∧ s.writingField d = false)) :
    ∃ (v : State) (skip : Option DriveNo), s.request d q.byte = v.schedule ∧ (skip = none ∨ skip = some d) ∧
      (v = (s.emptied d (q.leaves d s.waiters)).released (s.slotsOf d) skip ∨
        v.nextStep = some ((s.emptied d (q.leaves d s.waiters)).released (s.slotsOf d) skip)) := by
  rcases h with ⟨rfl, hv, hc⟩ | ⟨rfl, hv, hw⟩
  · refine ⟨s.beginRequest d .releasing .release (requestClassOf s.records[d].host.requestClass), none, ?_, .inl rfl,
      .inr (State.releasing_nextStep hst hq hc _)⟩
    rw [State.request_taken hdr hpd (by rcases hv with e | e <;> rw [e] <;> rfl)]
    show s.takeRelease d _ = _
    unfold State.takeRelease
    rw [State.unwrittenSlots_nil hc]
    rfl
  · refine ⟨_, some d, ?_, .inr rfl, .inl rfl⟩
    rw [State.request_taken hdr hpd (by rcases hv with e | e | e <;> rw [e] <;> rfl)]
    show s.takeDiscard d = _
    unfold State.takeDiscard
    rw [if_neg (by rw [hw]; simp), State.discardNow_empty hq]
    rfl

theorem State.Steady.emptied {s : State} (h : s.Steady) (d : DriveNo) (ws : Vector WaiterEntry 8) : (s.emptied d ws).Steady :=
  h.sameDrives rfl rfl (h.noDrain_upd (f := MountRecord.emptied) rfl ⟨nofun, nofun⟩)

theorem State.slot_emptied {s : State} {d : DriveNo} {ws : Vector WaiterEntry 8} {j : Nat} (hj : j < s.slots.length) :
    (s.emptied d ws).slot j = if (s.slot j).onDrive d = true then (s.slot j).freed else s.slot j := by
  refine (State.slot_freeSlots s (s.slotsOf d) hj).trans (if_congr ?_ rfl rfl)
  exact State.mem_slotsWhere.trans ⟨fun h => h.2, fun h => ⟨hj, h⟩⟩

theorem Request.leaves_slotWait {q : Request} {d : DriveNo} {s u : State} (hu : u.waiters = q.leaves d s.waiters) {r : Requester}
    (h : s.slotWait r = none) : u.slotWait r = none := by
  unfold Request.leaves at hu
  split at hu
  · exact State.slotWait_failed hu h
  · unfold State.slotWait at *
    rw [hu]; exact h

/-- A wait of another drive is left as it is. -/
theorem Request.leaves_other {q : Request} {d : DriveNo} {ws : Vector WaiterEntry 8} {r : Requester} {w : Waiter}
    (hw : ws[r] = .wait w) (hd : w.key.drive ≠ d) : (q.leaves d ws)[r] = .wait w := by
  unfold Request.leaves
  split
  · rw [updAll_get, hw]
    unfold WaiterEntry.failDrive
    exact if_neg hd
  · exact hw

/-- The waits after the grant: the granted one is ON_FILL, the others as the request leaves them (R48). -/
theorem Request.leaves_granted {q : Request} {d : DriveNo} {s : State} {r0 : Requester} {w : Waiter} (h0 : s.waiters[r0] = .wait w)
    (hs : w.status = .hold .slotWait) (h : ∀ r : Requester, r ≠ r0 → s.slotWait r = none) (hd : w.key.drive ≠ d) :
    updAll (q.leaves d s.waiters) (fun e => e.granted w.key) = updAll s.waiters (fun e =>
      if e = .wait w then .wait { w with status := .hold .onFill } else if q = .discard then e.failDrive d .noVolume else e) := by
  refine Vector.ext_fin fun r => ?_
  rw [updAll_get, updAll_get]
  by_cases hr : r = r0
  · subst hr
    rw [Request.leaves_other h0 hd, h0, if_pos rfl]
    unfold WaiterEntry.granted
    exact if_pos ⟨rfl, hs⟩
  · have hno := h r hr
    have hleft : (q.leaves d s.waiters)[r] = if q = .discard then (s.waiters[r] : WaiterEntry).failDrive d .noVolume else s.waiters[r] := by
      unfold Request.leaves
      split
      · rw [updAll_get]
      · rfl
    have hquiet : ((q.leaves d s.waiters)[r] : WaiterEntry).slotWait? = none :=
      Request.leaves_slotWait (q := q) (d := d) (s := s) (u := { s with waiters := q.leaves d s.waiters }) rfl hno
    have hne : s.waiters[r] ≠ .wait w := fun e => by
      unfold State.slotWait at hno
      rw [e, WaiterEntry.slotWait?_wait, if_pos hs] at hno
      cases hno
    rw [if_neg hne, ← hleft]
    revert hquiet
    cases (q.leaves d s.waiters)[r] with
    | wait x =>
      intro hquiet
      unfold WaiterEntry.granted
      refine if_neg fun g => ?_
      rw [WaiterEntry.slotWait?_wait, if_pos g.2] at hquiet
      cases hquiet
    | _ => exact fun _ => rfl

/-- Settles O35: the freed slots make one release event, with or without a grant. -/
theorem releaseAndDiscardEmptyDrive : Obligations.ReleaseAndDiscardEmptyDrive := by
  refine ⟨fun d q s hst hdr hpd hq hwait hcase => ?_,
    fun d q s r0 w k ks g hst hdr hpd hq hcase h0 hslot hother hkd hvol hg hl hfree hof hkq hkm => ?_⟩
  · obtain ⟨v, skip, hreq, -, hv⟩ := State.request_empties (s := s.bumped) hst hdr hpd hq hcase
    have hquiet : (s.bumped.emptied d (q.leaves d s.waiters)).released (s.slotsOf d) skip = s.bumped.emptied d (q.leaves d s.waiters) :=
      State.released_quiet (hwait.imp (fun h r => Request.leaves_slotWait (s := s) rfl (h r)) id) skip
    have hu : (s.bumped.classed d none).request d q.byte = s.bumped.emptied d (q.leaves d s.waiters) := by
      rw [State.classed_none, hreq]
      refine State.schedule_after hv (.inl hquiet) ?_
      exact State.Steady.emptied (s := s.bumped) hst d _
    obtain ⟨t, ht, heq, hlands⟩ := State.cbWrite_request hst.1 hu hst.1 rfl rfl
    have hslots : t.slots = (s.bumped.emptied d (q.leaves d s.waiters)).slots := by rw [heq]
    refine ⟨t, by rw [← ht]; exact exec_request q d none s, ?_, fun k hk => ?_, ?_, hlands⟩
    · rw [hslots]; exact heq
    · unfold State.slot
      rw [hslots]
      exact State.slot_emptied (s := s.bumped) hk
    · rw [hslots]; exact State.length_freeSlots s.bumped _
  · obtain ⟨v, skip, hreq, hskip, hv⟩ := State.request_empties (s := s.bumped) hst hdr hpd hq hcase
    let t0 := s.bumped.emptied d (q.leaves d s.waiters)
    have hlen : t0.slots.length = s.slots.length := State.length_freeSlots s.bumped _
    have hklt : k < s.slots.length := (State.mem_slotsWhere.mp (show k ∈ s.slotsOf d by rw [hof]; exact List.mem_cons_self)).1
    have hrec : t0.records[w.key.drive] = s.records[w.key.drive] := upd_get_ne s.records _ (Ne.symm hkd)
    have hgeo : t0.geometry[w.key.drive] = some g := (upd_get_ne s.geometry _ (Ne.symm hkd)).trans hg
    have hwait0 : t0.slotWait r0 = some w := by
      unfold State.slotWait
      rw [show t0.waiters[r0] = .wait w from Request.leaves_other h0 hkd]
      exact if_pos hslot
    have hflist : t0.freeList = k :: ks := by show s.freeList ++ s.slotsOf d = _; rw [hfree, hof]; rfl
    have hvictim : t0.victim = some k := by unfold State.victim; rw [hflist]
    let o : Op := Op.asked (.fill k s.records[w.key.drive].generation) none w.key.cylinder w.key.head w.cls s.eventStamp
    let u : State := { t0 with
      slots := t0.slots.modify k (fun _ => t0.assigned w.key)
      freeList := ks
      recency := k :: t0.recency.erase k
      waiters := updAll t0.waiters (fun e => e.granted w.key)
      drives := upd s.drives w.key.drive (fun v => { v with queue := [o] }) }
    have hgrant : t0.released (s.slotsOf d) skip = u := by
      have hgen : t0.records[w.key.drive].generation = s.records[w.key.drive].generation := by rw [hrec]
      unfold State.released
      rw [if_neg (by rw [hof]; simp), State.releaseEvent_grants hwait0
        (fun r hr => Request.leaves_slotWait (s := s) rfl (hother r hr)) (State.lookup_freed (s := s.bumped) hl rfl)
        (by
          have : t0.volume w.key.drive = s.volume w.key.drive := congrArg MountRecord.state hrec
          rw [this]; rcases hvol with e | e <;> rw [e] <;> rfl)
        (by rcases hskip with rfl | rfl
            · simp
            · intro e; cases e; exact hkd rfl) hvictim,
        State.assign_first (s := t0) (key := w.key) (by omega) hkq, hflist, hgen, List.erase_cons_head]
      rfl
    have hnodrain : ∀ e : DriveNo, u.NoDrain e := hst.noDrain_upd (f := MountRecord.emptied) rfl ⟨nofun, nofun⟩
    have hstart : u.nextStep = some { u with drives := upd s.drives w.key.drive (fun v => v.startedFor o u.now) } :=
      State.started_nextStep (u := u) (o := o) hst rfl hkm rfl hnodrain
    have hu : (s.bumped.classed d none).request d q.byte =
        { u with drives := upd s.drives w.key.drive (fun v => v.startedFor o u.now) } := by
      rw [State.classed_none, hreq]
      refine State.schedule_after (v := t0.released (s.slotsOf d) skip) hv (.inr (by rw [hgrant]; exact hstart)) ?_
      exact hst.started rfl hkq rfl hnodrain
    obtain ⟨t, ht, heq, hlands⟩ := State.cbWrite_request hst.1 hu hst.1 rfl rfl
    have hslots : t.slots = u.slots := by rw [heq]
    refine ⟨t, by rw [← ht]; exact exec_request q d none s, ?_, fun j hj => ?_, ?_, hlands⟩
    · rw [hslots, ← Request.leaves_granted h0 hslot hother hkd, ← hof]
      exact heq
    · have hget : t.slot j = if k = j ∧ j < t0.slots.length then t0.assigned w.key else t0.slot j := by
        unfold State.slot
        rw [hslots]
        exact slot_modify ..
      rw [hget]
      by_cases hjk : j = k
      · rw [if_pos ⟨hjk.symm, by omega⟩, if_pos hjk]
        unfold State.assigned State.sectorCount
        rw [hrec, hgeo]
      · rw [if_neg fun h => hjk h.1.symm, if_neg hjk]
        exact State.slot_emptied (s := s.bumped) hj
    · rw [hslots]
      exact (List.length_modify ..).trans hlen

end Sys2Proof.Machine
end

section
/-! SUPPORT. Doors that move the media state alone, the spin-up, the idle timers, the waiter limit, promotion and age write-back. -/

namespace Sys2Proof.Machine

/-! ### The schedule where queues stay -/

/-- Nothing is left to be done where the queues are those of a steady state. -/
theorem State.Steady.schedule_of_queues {s u : State} (h : s.Steady) (hp : u.phase = s.phase)
    (hq : ∀ e : DriveNo, u.drives[e].queue = s.drives[e].queue) (hv : ∀ e : DriveNo, u.NoDrain e) : u.schedule = u.notices := by
  refine State.schedule_none (u.nextStep_eq_none.mpr ⟨fun e => State.volumeStep_none (hv e), State.drainStep_none (hp.trans h.1),
    fun e => State.selectStep_steady ?_, ?_⟩)
  · rw [Drive.currentOp_congr (hq e), hq e]; exact (h.2.1 e).1.1
  · rcases h.2.2 with hheld | hpos
    · exact State.arbiterStep_held (by rw [State.channelHeld_congr hq]; exact hheld)
    · exact State.arbiterStep_none fun e => by rw [Drive.positionedOp_congr (hq e)]; exact hpos e

/-- What the notices do to one drive (R107, R116). -/
def Drive.noticed (v : Drive) (now delay : Nat) : Drive :=
  (if v.current && v.currentOp.isNone then v.lose now delay else v).watchAt now

/-- The notices change the one drive that is not steady. -/
theorem State.notices_one {u : State} {d : DriveNo} (h : ∀ e : DriveNo, e ≠ d → u.drives[e].Steady) :
    u.notices = { u with drives := upd u.drives d (fun v => v.noticed u.now.ms u.settings.headUnloadMs) } := by
  unfold State.notices
  refine congrArg (fun ds => ({ u with drives := ds } : State)) (Vector.ext_fin fun e => ?_)
  rw [updAll_get, upd_get]
  by_cases he : d = e
  · subst he; rw [if_pos rfl]; rfl
  · rw [if_neg he]; exact (h e (Ne.symm he)).notice _ _

/-- A state of a steady one with one drive changed, which keeps its queue: the schedule gives that drive its notice. -/
theorem State.Steady.schedule_drive {s u : State} (h : s.Steady) (hp : u.phase = s.phase) {d : DriveNo} {f : Drive → Drive}
    (hd : u.drives = upd s.drives d f) (hq : (f s.drives[d]).queue = s.drives[d].queue) (hv : ∀ e : DriveNo, u.NoDrain e) :
    u.schedule = { u with drives := upd s.drives d (fun v => (f v).noticed u.now.ms u.settings.headUnloadMs) } := by
  have hother : ∀ e : DriveNo, e ≠ d → u.drives[e] = s.drives[e] := fun e he => by rw [hd, upd_get_ne _ _ (Ne.symm he)]
  have hqueue : ∀ e : DriveNo, u.drives[e].queue = s.drives[e].queue := fun e => by
    by_cases he : e = d
    · subst he; rw [hd, upd_get_same]; exact hq
    · rw [hother e he]
  rw [h.schedule_of_queues hp hqueue hv, State.notices_one (d := d) fun e he => by rw [hother e he]; exact (h.2.1 e).1, hd, upd_upd]

/-- A drive at rest in any media state is steady. -/
theorem Drive.Steady.at_rest {v w : Drive} (h : v.Steady) (hv : v.queue = []) (hq : w.queue = v.queue) (hc : w.current = v.current)
    (hw : w.watch = none ∨ w.watch = v.watch) : w.Steady := by
  have hno := Drive.currentOp_nil hv
  refine Drive.Resting.steady ⟨hq.trans hv, hc.trans (h.current_false hno), ?_⟩
  rcases hw with e | e
  · exact e
  · rw [e]; exact h.watch_none hno

/-! ### Doors -/

/-- Settles O38: the door of a drive at rest moves its media state alone. -/
theorem doorMovesMedia : Obligations.DoorMovesMedia := by
  intro d pins s
  refine ⟨fun hd hv hst hq => ?_, fun hd hm hp => ?_, fun hd => ?_⟩
  · let u : State := ((s.bumped.sense pins).setDoor d false).updDrive d Drive.doorOpens
    have hsched : u.schedule = u := by
      refine State.Steady.schedule (hst.updSame (u := u) (f := Drive.doorOpens) rfl rfl rfl ?_ (State.noDrain_congr hst fun _ => rfl))
      exact (hst.2.1 d).1.at_rest hq rfl rfl (.inl rfl)
    have hopen : (s.bumped.sense pins).doorOpens d = u := by
      unfold State.doorOpens
      exact (congrArg State.schedule (if_pos hv)).trans hsched
    obtain ⟨t, ht, hs⟩ := State.event_stores (s := s) (f := fun t => (t.sense pins).doorOpens d) hopen rfl rfl rfl
    exact ⟨t, by rw [exec_doorOpen, if_pos (by simpa [State.sensed] using hd), ht], hs⟩
  · obtain ⟨t, ht, hs⟩ := State.event_stores (s := s) (f := fun t => (t.sense pins).doorCloses d) rfl rfl rfl rfl
    exact ⟨t, by rw [exec_doorClose, if_pos ⟨by simpa [State.sensed] using hd, hm⟩, ht], hs⟩
  · have hno : ¬ s.sensed d = true := by simpa [State.sensed] using hd
    exact ⟨by rw [exec_doorOpen, if_neg hno], by rw [exec_doorClose, if_neg fun h => hno h.1]⟩

/-! ### The spin-up -/

/-- Settles O40: the spin-up of a drive at rest, and of a waiting seek on its target. -/
theorem spinUpEnds : Obligations.SpinUpEnds := by
  intro d pins t0 s hst hspin hmedia
  let x : State := (s.bumped.advance (t0 + s.straps.spinUpMs)).sense pins
  have hexec : exec (.spinUpExpiry d pins) s = .next (s.finish (x.spinUpEnds d).schedule) := by
    rw [exec_spinUpExpiry]
    unfold State.spinUpExpires
    rw [hspin]
    dsimp only
    rw [State.event_eq]
  refine ⟨fun hno => ?_, fun o ho hph hmove hstep hhead hready => ?_⟩
  · have hq := (hst.2.1 d).1.1 hno
    have hcur := (hst.2.1 d).1.current_false hno
    let f : Drive → Drive := fun v =>
      { v with
        media := if pins.ready.getLsbD d.val = true then .running else .stopped
        spinUp := none
        motorIdle := if pins.ready.getLsbD d.val = true then some x.now.ms else v.motorIdle }
    have hend : x.spinUpEnds d = { x with drives := upd s.drives d f } := by
      unfold State.spinUpEnds
      dsimp only
      have hxc : x.drives[d].current = false := hcur
      by_cases hr : pins.ready.getLsbD d.val = true
      · rw [show x.pins = pins from rfl, if_pos hr, hxc, if_neg (by simp)]
        refine congrArg (fun ds => ({ x with drives := ds } : State)) (upd_congr s.drives d ?_)
        simp only [f, hr, hcur, if_true]
        rfl
      · rw [show x.pins = pins from rfl, if_neg hr, hxc, if_neg (by simp)]
        refine congrArg (fun ds => ({ x with drives := ds } : State)) (upd_congr s.drives d ?_)
        simp only [f, hr]
        rfl
    have hsched : (x.spinUpEnds d).schedule = { x with drives := upd s.drives d f } := by
      rw [hend]
      refine State.Steady.schedule (hst.updSame rfl rfl rfl ?_ (State.noDrain_congr hst fun _ => rfl))
      exact (hst.2.1 d).1.at_rest hq rfl rfl (.inr rfl)
    rw [hexec, hsched]
    exact ⟨_, rfl, State.finish_stores rfl rfl rfl⟩
  · have hcur : s.drives[d].current = true := (hst.2.1 d).1.2.1.mpr (by rw [ho]; simp)
    have hwatch : s.drives[d].watch = none := by
      by_contra hw
      have := ((hst.2.1 d).1.2.2.mp hw).1
      unfold Drive.atSpeed at this
      rw [hmedia] at this
      cases this
    let f : Drive → Drive := fun v =>
      { v with
        media := .loaded
        spinUp := none
        motorIdle := none
        moved := true
        move := .settling (x.now.ms + s.settings.settle.toNat) }
    let s1 : State := { x with drives := upd s.drives d (fun w => { w with media := .running, spinUp := none, motorIdle := none }) }
    have hg : s1.drives[d] = { s.drives[d] with media := .running, spinUp := none, motorIdle := none } := upd_get_same s.drives d _
    have hs1 : x.spinUpEnds d = s1.motorStage d := by
      unfold State.spinUpEnds
      dsimp only
      rw [show x.pins = pins from rfl, if_pos hready, show x.drives[d].current = true from hcur,
        show x.drives[d].move = .spinUp from hmove, if_pos ⟨rfl, rfl⟩]
      refine congrArg (fun t : State => t.motorStage d) ?_
      refine congrArg (fun ds => ({ x with drives := ds } : State)) (upd_congr s.drives d ?_)
      rw [hcur]
      rfl
    have hcop : s1.drives[d].currentOp = some o := by rw [hg]; exact ho
    have hstage : s1.motorStage d = { x with drives := upd s.drives d f } := by
      unfold State.motorStage
      dsimp only
      rw [hg]
      dsimp only
      rw [hstep]
      dsimp only [Option.isSome]
      unfold State.recalStage
      rw [if_neg (by simp), if_neg (by rw [hg]; show s.drives[d].head ≠ none; rw [hhead]; simp)]
      unfold State.stepStage
      rw [hcop]
      dsimp only
      rw [if_pos (by rw [hg]; show s.drives[d].head.getD 0 = o.cylinder; rw [hhead]; rfl)]
      unfold State.loadStage State.settleStage
      have hld : (s1.updDrive d (fun v => if v.media = .running then { v with media := .loaded, moved := true } else v)).drives[d] =
          { s.drives[d] with media := .loaded, spinUp := none, motorIdle := none, moved := true } :=
        (upd_get_same s1.drives d _).trans (by rw [hg]; rfl)
      rw [hld, if_pos rfl]
      unfold State.updDrive
      dsimp only
      rw [upd_upd, upd_upd]
      refine congrArg (fun ds => ({ x with drives := ds } : State)) (upd_congr s.drives d ?_)
      simp only [if_true]
      rfl
    have hsched : (x.spinUpEnds d).schedule =
        { x with drives := upd s.drives d (fun v => (f v).noticed x.now.ms x.settings.headUnloadMs) } := by
      rw [hs1, hstage]
      exact hst.schedule_drive (u := { x with drives := upd s.drives d f }) rfl rfl rfl (State.noDrain_congr hst fun _ => rfl)
    have hnotice : upd s.drives d (fun v => (f v).noticed x.now.ms x.settings.headUnloadMs) =
        upd s.drives d (fun v => { f v with watch := some x.now.ms }) := by
      refine upd_congr s.drives d ?_
      have hfo : (f s.drives[d]).currentOp = some o := ho
      unfold Drive.noticed
      rw [hfo, Option.isNone_some, Bool.and_false, if_neg (by simp)]
      unfold Drive.watchAt
      rw [hfo, show (f s.drives[d]).watch = none from hwatch]
      rfl
    rw [hexec, hsched, hnotice]
    exact ⟨_, rfl, State.finish_stores rfl rfl rfl⟩

/-! ### Idle timers, waits and promotion -/

/-- Settles O41: each expiry by its timer. -/
theorem idleTimersStopDrive : Obligations.IdleTimersStopDrive := by
  intro d t0 s hcur
  refine ⟨fun hm ht => ?_, fun hm ht => ⟨fun h0 => ?_, fun h0 => ?_⟩⟩
  · have hdue : s.drives[d].unloadDue s.settings.headUnloadMs = some (t0 + s.settings.headUnload.toNat * 10) := by
      unfold Drive.unloadDue
      rw [if_pos ⟨hm, hcur⟩, ht]
      rfl
    rw [exec_headUnloadExpiry]
    unfold State.unloadExpires
    rw [hdue]
    obtain ⟨t, he, hs⟩ := State.event_stores (s := s) (f := fun u =>
      (u.advance (t0 + s.settings.headUnload.toNat * 10)).updDrive d
        (fun v => v.unloadHead (u.advance (t0 + s.settings.headUnload.toNat * 10)).now.ms)) rfl rfl rfl rfl
    exact ⟨t, congrArg _ he, hs⟩
  · rw [exec_motorIdleExpiry]
    unfold State.idleExpires Drive.idleDue Settings.motorIdleMs
    rw [if_neg (by rw [h0]; simp)]
  · have hpos : 0 < s.settings.motorIdleMs := by
      unfold Settings.motorIdleMs
      have : s.settings.motorIdle.toNat ≠ 0 := fun e => h0 (BitVec.eq_of_toNat_eq e)
      omega
    have hdue : s.drives[d].idleDue s.settings.motorIdleMs = some (t0 + s.settings.motorIdle.toNat * 1000) := by
      unfold Drive.idleDue
      rw [if_pos ⟨hm, hcur, hpos⟩, ht]
      rfl
    rw [exec_motorIdleExpiry]
    unfold State.idleExpires
    rw [hdue]
    obtain ⟨t, he, hs⟩ := State.event_stores (s := s)
      (f := fun u => (u.advance (t0 + s.settings.motorIdle.toNat * 1000)).updDrive d Drive.idleStop) rfl rfl rfl rfl
    exact ⟨t, congrArg _ he, hs⟩

theorem OpClass.up_eq {c : OpClass} : c.up = if c = .background then .normal else .urgent := by cases c <;> rfl

/-- Settles O42: the wait's expiry, and one step of promotion. -/
theorem waitsExpireAndOperationsRise : Obligations.WaitsExpireAndOperationsRise := by
  refine ⟨fun r w h s hw hst hex h0 => ?_, fun d slot o s hop hph hcls h0 => ?_⟩
  · have hpos : s.settings.waiterLimit.toNat ≠ 0 := fun e => h0 (BitVec.eq_of_toNat_eq e)
    have hdue : (s.waiters[r] : WaiterEntry).due s.settings.waiterMs = some (w.start.ms + s.settings.waiterLimit.toNat * 100) := by
      rw [hw]
      unfold WaiterEntry.due
      dsimp only
      rw [hst]
      exact if_pos ⟨hex, by unfold Settings.waiterMs; omega⟩
    have hexpire : (s.waiters[r] : WaiterEntry).expire = .wait { w with status := .expired h } := by
      rw [hw]
      unfold WaiterEntry.expire
      dsimp only
      rw [hst]
    rw [exec_waiterExpiry]
    unfold State.waiterExpires
    rw [hdue, hexpire]
    obtain ⟨t, he, hs⟩ := State.event_stores (s := s) (f := fun u =>
      (u.advance (w.start.ms + s.settings.waiterLimit.toNat * 100)).setWaiter r (.wait { w with status := .expired h })) rfl rfl rfl rfl
    exact ⟨t, congrArg _ he, hs⟩
  · have hpos : s.settings.promotionInterval.toNat ≠ 0 := fun e => h0 (BitVec.eq_of_toNat_eq e)
    have hdue : o.promotionDue s.settings.promotionMs = some (o.promoted.ms + s.settings.promotionInterval.toNat * 100) := by
      have hms : 0 < s.settings.promotionMs := by unfold Settings.promotionMs; omega
      unfold Op.promotionDue
      rcases hph with e | ⟨at_, e⟩ <;> rw [e] <;> exact if_pos ⟨rfl, hcls, hms⟩
    rw [exec_promotion]
    unfold State.promotes
    rw [hop]
    dsimp only
    rw [hdue]
    obtain ⟨t, he, heq, hs⟩ := State.event_stores (s := s) (f := fun u =>
      (u.advance (o.promoted.ms + s.settings.promotionInterval.toNat * 100)).updOp d slot (fun x =>
        x.promote (u.advance (o.promoted.ms + s.settings.promotionInterval.toNat * 100)).now)) rfl rfl rfl rfl
    refine ⟨t, congrArg _ he, ?_, hs⟩
    rw [heq]
    unfold State.updOp State.updDrive Op.promote
    simp only [OpClass.up_eq]
    rfl

/-! ### Age write-back -/

/-- Settles O43: the WRITE is the drive's first operation. -/
theorem agedSlotIsWritten : Obligations.AgedSlotIsWritten := by
  intro k key since s hst hres hkey hsince hflag hq hm
  have hready : s.ageReady k = some since := by
    have hlink : s.link k = none := by
      unfold State.link
      rw [hkey]
      exact Drive.opOf_none.mpr (by rw [hq]; simp)
    unfold State.ageReady
    exact (if_pos ⟨hres, hlink, hflag⟩).trans hsince
  let x : State := s.bumped.advance (since + s.settings.ageMs)
  let o : Op := Op.asked (.write k (s.slot k).generation false) (some .age) key.cylinder key.head .background x.now
  have hreq : x.requestWrite k .age .background = { x with drives := upd s.drives key.drive (fun v => { v with queue := [o] }) } :=
    State.requestWrite_first (s := x) (key := key) hkey hq .age .background
  obtain ⟨heq, hstore⟩ := State.finish_started (s := s)
    (u := { x with drives := upd s.drives key.drive (fun v => { v with queue := [o] }) }) (o := o) hst rfl rfl rfl hq hm rfl
    (State.noDrain_congr hst fun _ => rfl)
  refine ⟨_, ?_, heq, hstore⟩
  rw [exec_ageWriteBack]
  unfold State.ages
  rw [hready]
  dsimp only
  rw [State.event_eq, hreq]

end Sys2Proof.Machine
end

section
/-! SUPPORT. Slots that become STRANDED, and the removal of a diskette. -/

namespace Sys2Proof.Machine

/-! ### Slots that become STRANDED together -/

/-- An entry of a list after the same change of several entries, each once. -/
theorem getD_foldl_modify (f : Slot → Slot) (ks : List Nat) (hn : ks.Nodup) (l : List Slot) {j : Nat} (hj : j < l.length) :
    (ks.foldl (fun l k => l.modify k f) l).getD j Slot.blank =
      if j ∈ ks then f (l.getD j Slot.blank) else l.getD j Slot.blank := by
  induction ks generalizing l with
  | nil => rfl
  | cons k ks ih =>
    obtain ⟨hk, hn⟩ := List.nodup_cons.mp hn
    rw [List.foldl_cons, ih hn _ (by rw [List.length_modify]; exact hj), slot_modify]
    by_cases hkj : k = j
    · subst hkj
      rw [if_neg hk, if_pos ⟨rfl, hj⟩, if_pos List.mem_cons_self]
    · rw [if_neg (show ¬ (k = j ∧ j < l.length) from fun h => hkj h.1)]
      simp only [List.mem_cons, show j ≠ k from Ne.symm hkj, false_or]

theorem length_foldl_modify (f : Slot → Slot) (ks : List Nat) (l : List Slot) :
    (ks.foldl (fun l k => l.modify k f) l).length = l.length := by
  induction ks generalizing l with
  | nil => rfl
  | cons k ks ih => exact (ih _).trans (List.length_modify ..)

/-- A slot entry that has become STRANDED (R57). -/
def Slot.stranded (t : Slot) : Slot :=
  { (t.mapSectors (fun e => e.undo.damage)) with
    state := .stranded
    dirtySince := none
    yields := 0
    active := none
    pendingWrite := none }

theorem State.strandSlots_eq (s : State) (ks : List Nat) : ks.foldl State.strandSlot s =
    { s with slots := ks.foldl (fun l k => l.modify k Slot.stranded) s.slots, mem := (ks.foldl State.strandSlot s).mem } := by
  induction ks generalizing s with
  | nil => rfl
  | cons k ks ih =>
    rw [List.foldl_cons, ih]
    rfl

/-- Sectors that a slot's stranding leaves as they are. -/
theorem Slot.stranded_of_settled {t : Slot} (h : ∀ e ∈ t.sectors, e.state = .valid ∨ e.state = .dirty ∨ e.state = .damaged) :
    t.stranded = { t with state := .stranded, dirtySince := none, yields := 0, active := none, pendingWrite := none } := by
  have hmap : t.sectors.map (fun e => e.undo.damage) = t.sectors := by
    refine (List.map_congr_left (g := id) fun e he => ?_).trans (List.map_id _)
    unfold Sector.undo Sector.damage
    rcases h e he with g | g | g <;> simp [g]
  unfold Slot.stranded Slot.mapSectors
  rw [hmap]

/-- A slot without an ABSENT sector becomes STRANDED with its bytes. -/
theorem State.strandSlot_mem {s : State} {k : Nat} (h : ∀ e ∈ (s.slot k).sectors, e.state ≠ .absent) : (s.strandSlot k).mem = s.mem := by
  have hsec : ∀ p ∈ List.range (s.slot k).sectors.length, ((s.slot k).sector p).state ≠ .absent := fun p hp => by
    rw [List.mem_range] at hp
    unfold Slot.sector
    rw [List.getD_eq_getElem _ _ hp]
    exact h _ (List.getElem_mem hp)
  have hfold : ∀ (ps : List Nat) (m : List Host.Cell), (∀ p ∈ ps, ((s.slot k).sector p).state ≠ .absent) →
      ps.foldl (fun m p => if ((s.slot k).sector p).state = .absent ∧ true = true then
        Memory.store m (s.slotAddr k (p * s.slotSectorSize k)) (List.replicate (s.slotSectorSize k) 0xFF#8) else m) m = m := by
    intro ps
    induction ps with
    | nil => exact fun m _ => rfl
    | cons p ps ih =>
      intro m hp
      rw [List.foldl_cons, if_neg fun g => hp p List.mem_cons_self g.1]
      exact ih m fun q hq => hp q (List.mem_cons_of_mem p hq)
  exact hfold _ _ hsec

theorem State.strandSlots_mem {s : State} {ks : List Nat} (hn : ks.Nodup) (h : ∀ k ∈ ks, ∀ e ∈ (s.slot k).sectors, e.state ≠ .absent) :
    (ks.foldl State.strandSlot s).mem = s.mem := by
  induction ks generalizing s with
  | nil => rfl
  | cons k ks ih =>
    obtain ⟨hk, hn⟩ := List.nodup_cons.mp hn
    rw [List.foldl_cons, ih hn fun j hj => ?_, State.strandSlot_mem (h k List.mem_cons_self)]
    have hne : k ≠ j := fun e => hk (e ▸ hj)
    rw [show (s.strandSlot k).slot j = s.slot j from State.slot_updSlot_ne hne]
    exact h j (List.mem_cons_of_mem k hj)

/-! ### The slots and the volume of a removed diskette -/

theorem State.removeSlots_eq (s : State) (d : DriveNo) : s.removeSlots d =
    { s with
      slots := (s.removeSlots d).slots
      mem := ((s.removalStrands d).foldl State.strandSlot s).mem
      recency := (s.removalFrees d).foldl (fun r k => r.erase k) s.recency
      freeList := s.freeList ++ s.removalFrees d } := by
  have h : s.removeSlots d = ((s.removalStrands d).foldl State.strandSlot s).freeSlots (s.removalFrees d) := rfl
  rw [h, State.freeSlots_eq]
  conv_lhs => rw [State.strandSlots_eq]
  conv_rhs => rw [State.strandSlots_eq]

/-- A slot after the removal of a drive's diskette (R57). -/
theorem State.slot_removeSlots (s : State) (d : DriveNo) {j : Nat} (hj : j < s.slots.length) : (s.removeSlots d).slot j =
    if j ∈ s.removalFrees d then ((if j ∈ s.removalStrands d then (s.slot j).stranded else s.slot j) : Slot).freed
    else if j ∈ s.removalStrands d then (s.slot j).stranded else s.slot j := by
  have hstr : ((s.removalStrands d).foldl State.strandSlot s).slot j =
      if j ∈ s.removalStrands d then (s.slot j).stranded else s.slot j := by
    rw [State.strandSlots_eq]
    exact getD_foldl_modify Slot.stranded _ (s.slotsWhere_nodup _) s.slots hj
  have hlen : j < ((s.removalStrands d).foldl State.strandSlot s).slots.length := by
    rw [State.strandSlots_eq]
    exact lt_of_lt_of_eq hj (length_foldl_modify ..).symm
  unfold State.removeSlots
  rw [State.slot_freeSlots _ _ hlen, hstr]

theorem State.length_removeSlots (s : State) (d : DriveNo) : (s.removeSlots d).slots.length = s.slots.length := by
  unfold State.removeSlots
  rw [State.length_freeSlots, State.strandSlots_eq]
  exact length_foldl_modify ..

/-- The record of a volume whose diskette was removed (R121, R138). -/
def MountRecord.removed (lost : Bool) (m : MountRecord) : MountRecord :=
  { m with
    state := if lost then .lost else .unmounted
    outcome := .mediaRemoved
    progress := none
    flushSet := []
    flushFailed := false
    pendingDiscard := false
    host := if lost then m.host else { m.host with guardLock := false } }

theorem State.removeVolume_eq (s : State) (d : DriveNo) : s.removeVolume d =
    { s with
      records := upd s.records d (MountRecord.removed (decide (s.strandedSlots d ≠ [])))
      geometry := if s.strandedSlots d = [] then upd s.geometry d (fun _ => none) else s.geometry } := by
  unfold State.removeVolume
  dsimp only
  by_cases h : s.strandedSlots d = []
  · simp only [h, if_true, ne_eq, not_true_eq_false, decide_false]
    unfold State.unmount State.setOutcome State.updRecord
    dsimp only
    rw [upd_upd]
    rfl
  · rw [if_neg h, if_neg h, decide_eq_true h]
    unfold State.endRequest State.setOutcome
    rw [State.updRecord_updRecord, State.updRecord_updRecord]
    rfl

/-- The removal of a diskette whose drive has no operation and no running write round, and whose freed slots no requester
waits for (R121). -/
theorem State.removal_idle {s : State} {d : DriveNo} (hq : s.drives[d].queue = []) (hround : s.endedInRound d = none)
    (hwait : s.NoSlotWaits ∨ s.removalFrees d = []) : s.removal d =
      { s with
        slots := (s.removeSlots d).slots
        mem := ((s.removalStrands d).foldl State.strandSlot s).mem
        recency := (s.removalFrees d).foldl (fun r k => r.erase k) s.recency
        freeList := s.freeList ++ s.removalFrees d
        records := upd s.records d (MountRecord.removed (decide ((s.removeSlots d).strandedSlots d ≠ [])))
        geometry := if (s.removeSlots d).strandedSlots d = [] then upd s.geometry d (fun _ => none) else s.geometry
        waiters := updAll s.waiters (fun e => e.failDrive d .volumeLost) } := by
  have hopen : s.reopenEnded d = s := by unfold State.reopenEnded; rw [hround]
  have hrem : s.removal d = s.removeDiskette d := by
    unfold State.removal
    rw [hopen, State.dropOps_nil hq, hq]
    rfl
  rw [hrem]
  unfold State.removeDiskette
  rw [State.removeVolume_eq, State.released_quiet]
  · unfold State.failDriveWaiters
    conv_lhs => rw [State.removeSlots_eq]
    rfl
  · refine hwait.imp (fun h r => State.slotWait_failed (s := s) (d := d) (c := .volumeLost) ?_ (h r)) id
    unfold State.failDriveWaiters
    rw [State.removeSlots_eq]

/-- A slot of a drive by its removal, where the drive's slots are RESIDENT or STRANDED. -/
theorem State.mem_removalStrands {s : State} {d : DriveNo} {k : Nat}
    (h : (s.slot k).onDrive d = true → (s.slot k).state = .resident ∨ (s.slot k).state = .stranded) :
    k ∈ s.removalStrands d ↔
      k < s.slots.length ∧ (s.slot k).onDrive d = true ∧ (s.slot k).state = .resident ∧ (s.slot k).dirty = true := by
  refine State.mem_slotsWhere.trans (and_congr_right fun _ => ?_)
  rw [Bool.and_eq_true]
  refine and_congr_right fun hd => ?_
  unfold Slot.strandedByRemoval
  rcases h hd with e | e <;> simp [e]

theorem State.removalFrees_eq {s : State} {d : DriveNo}
    (h : ∀ k, k < s.slots.length → (s.slot k).onDrive d = true → (s.slot k).state = .resident ∨ (s.slot k).state = .stranded) :
    s.removalFrees d = s.slotsWhere (fun _ x => x.onDrive d && decide (x.state = .resident) && !x.dirty) := by
  refine List.filter_congr fun k hk => ?_
  rw [List.mem_range] at hk
  cases hd : (s.slot k).onDrive d with
  | false => simp [hd]
  | true =>
    unfold Slot.freedByRemoval
    rcases h k hk hd with e | e <;> simp [e]

/-- A drive without a WRITING slot has no running write round. -/
theorem State.endedInRound_none {s : State} {d : DriveNo}
    (h : ∀ k, k < s.slots.length → (s.slot k).onDrive d = true → (s.slot k).state ≠ .writing) : s.endedInRound d = none := by
  unfold State.endedInRound
  split
  · split
    · refine if_neg ?_
      rintro ⟨-, hkd, happ⟩
      unfold State.applies at happ
      simp only [Bool.and_eq_true, decide_eq_true_eq] at happ
      obtain ⟨⟨⟨hlt, hw⟩, hkey⟩, -⟩ := happ
      refine h _ hlt ?_ hw
      unfold Slot.onDrive
      rw [hkey]
      simpa using hkd
    · rfl
  · rfl

/-- Settles O39: the removal of a diskette whose drive is at rest. -/
theorem doorOpenStrandsDirtySlots : Obligations.DoorOpenStrandsDirtySlots := by
  intro d pins s hd hv hst hq hwait hslots
  let y : State := ((s.bumped.sense pins).setDoor d false).updDrive d Drive.doorOpens
  let z : State := y.removeSlots d
  let lost : Bool := decide (z.strandedSlots d ≠ [])
  have hfrees : y.removalFrees d = s.slotsWhere (fun _ x => x.onDrive d && decide (x.state = .resident) && !x.dirty) :=
    State.removalFrees_eq (s := y) hslots
  have hfree : ∀ k, k ∈ y.removalFrees d ↔
      k < s.slots.length ∧ (s.slot k).onDrive d = true ∧ (s.slot k).state = .resident ∧ (s.slot k).dirty = false := fun k => by
    rw [hfrees, State.mem_slotsWhere]
    simp [and_assoc]
  have hstrand : ∀ k, k ∈ y.removalStrands d ↔
      k < s.slots.length ∧ (s.slot k).onDrive d = true ∧ (s.slot k).state = .resident ∧ (s.slot k).dirty = true := fun k => by
    by_cases hk : k < s.slots.length
    · exact State.mem_removalStrands (s := y) (hslots k hk)
    · exact ⟨fun h => absurd (State.mem_slotsWhere.mp h).1 hk, fun h => absurd h.1 hk⟩
  have hround : y.endedInRound d = none := State.endedInRound_none (s := y) fun k hk hon hw => by
    rcases hslots k hk hon with e | e
    · have := hw.symm.trans e; cases this
    · have := hw.symm.trans e; cases this
  have hremoval : y.removal d = _ := State.removal_idle (s := y) ((congrArg Drive.queue (upd_get_same s.drives d _)).trans hq) hround (by
    refine hwait.imp id fun h => List.eq_nil_iff_forall_not_mem.mpr fun k hk => ?_
    obtain ⟨hk, hon, hres, hdirty⟩ := (hfree k).mp hk
    rw [h k hk hon hres] at hdirty
    cases hdirty)
  let w : State := { y with
    slots := z.slots
    mem := ((y.removalStrands d).foldl State.strandSlot y).mem
    recency := (y.removalFrees d).foldl (fun r k => r.erase k) s.recency
    freeList := s.freeList ++ y.removalFrees d
    records := upd s.records d (MountRecord.removed lost)
    geometry := if z.strandedSlots d = [] then upd s.geometry d (fun _ => none) else s.geometry
    waiters := updAll s.waiters (fun e => e.failDrive d .volumeLost) }
  have hopen : (s.bumped.sense pins).doorOpens d = w := by
    unfold State.doorOpens
    refine (congrArg State.schedule ((if_neg hv).trans hremoval)).trans ?_
    refine State.Steady.schedule (hst.updSame (u := w) (f := Drive.doorOpens) rfl rfl rfl ?_ ?_)
    · exact (hst.2.1 d).1.at_rest hq rfl rfl (.inl rfl)
    · refine hst.noDrain_upd (f := MountRecord.removed lost) rfl ?_
      unfold MountRecord.removed
      cases lost <;> exact ⟨nofun, nofun⟩
  have hexec : exec (.doorOpen d pins) s = .next (s.finish w) := by
    rw [exec_doorOpen, if_pos (by simpa [State.sensed] using hd), State.event_eq, hopen]
  obtain ⟨m, hm⟩ : ∃ m, s.finish w = w.withMem m := ⟨_, State.finish_withMem (drainEnded_of_phase rfl)⟩
  have hslot : ∀ k, k < s.slots.length → (s.finish w).slot k =
      if k ∈ y.removalFrees d then ((if k ∈ y.removalStrands d then (s.slot k).stranded else s.slot k) : Slot).freed
      else if k ∈ y.removalStrands d then (s.slot k).stranded else s.slot k := fun k hk => by
    rw [hm]
    exact State.slot_removeSlots y d hk
  have hrec : ∀ e : DriveNo, (s.finish w).records[e] = if d = e then s.records[d].removed lost else s.records[e] := fun e => by
    rw [hm]
    exact upd_get ..
  have hrecd : (s.finish w).records[d] = s.records[d].removed lost := by rw [hrec, if_pos rfl]
  have hvol : (s.finish w).volume d = if lost = true then .lost else .unmounted := congrArg MountRecord.state hrecd
  have hdrv : (s.finish w).drives[d] = s.drives[d].doorOpens := by
    rw [hm]
    exact upd_get_same s.drives d _
  have hgeo : (s.finish w).geometry = if z.strandedSlots d = [] then upd s.geometry d (fun _ => none) else s.geometry := by
    rw [hm]; rfl
  have hlost : lost = true ↔ ∃ k, k < s.slots.length ∧ (s.slot k).onDrive d = true ∧
      ((s.slot k).dirty = true ∨ (s.slot k).state = .stranded) := by
    have hz : ∀ k, k ∈ z.strandedSlots d ↔ k < s.slots.length ∧ (z.slot k).onDrive d = true ∧ (z.slot k).state = .stranded := fun k => by
      rw [show z.strandedSlots d = z.slotsWhere _ from rfl, State.mem_slotsWhere,
        show z.slots.length = s.slots.length from State.length_removeSlots y d, Bool.and_eq_true, decide_eq_true_eq]
    have hzk : ∀ k, k < s.slots.length → z.slot k = _ := fun k hk => State.slot_removeSlots y d hk
    have hne : z.strandedSlots d ≠ [] ↔ ∃ k, k ∈ z.strandedSlots d :=
      ⟨List.exists_mem_of_ne_nil _, fun ⟨k, hk⟩ => List.ne_nil_of_mem hk⟩
    rw [decide_eq_true_eq, hne]
    refine exists_congr fun k => (hz k).trans (and_congr_right fun hk => ?_)
    rw [hzk k hk]
    by_cases hf : k ∈ y.removalFrees d
    · rw [if_pos hf]
      obtain ⟨-, hon, hres, hcl⟩ := (hfree k).mp hf
      rw [hres, hcl]
      exact ⟨fun h => (by cases h.1), fun h => (by simp at h)⟩
    · rw [if_neg hf]
      by_cases hs : k ∈ y.removalStrands d
      · rw [if_pos hs]
        obtain ⟨-, hon, hres, hdi⟩ := (hstrand k).mp hs
        exact ⟨fun _ => ⟨hon, .inl hdi⟩, fun _ => ⟨hon, rfl⟩⟩
      · rw [if_neg hs]
        refine and_congr_right fun hon => ⟨.inr, fun h => h.elim (fun hdi => ?_) id⟩
        exact (hslots k hk hon).resolve_left fun hres => hs ((hstrand k).mpr ⟨hk, hon, hres, hdi⟩)
  refine ⟨_, hexec, by rw [hdrv]; rfl, by rw [hdrv]; rfl, ?_, fun h => ?_, fun h => ?_, by rw [hrecd]; rfl, by rw [hrecd]; rfl,
    by rw [hrecd]; rfl, fun k hk => ?_, fun e he => ⟨?_, by rw [hrec, if_neg (Ne.symm he)]⟩, by rw [hm]; rfl, by rw [hm, ← hfrees]; rfl,
    by rw [hm, ← hfrees]; rfl, by rw [hm]; rfl, by rw [hm]; rfl, by rw [hm]; rfl, fun a ha hb => ?_, fun hab a hb => ?_⟩
  · rw [hvol]
    exact if_congr hlost rfl rfl
  · have hl : ¬ lost = true := fun hl => by
      rw [hvol, if_pos hl] at h
      cases h
    have hnil : z.strandedSlots d = [] := by simpa [lost] using hl
    rw [hgeo, if_pos hnil, upd_get_same, hrecd]
    refine ⟨rfl, ?_⟩
    unfold MountRecord.removed
    rw [if_neg hl, if_neg hl]
  · have hl : lost = true := by
      by_contra hl
      rw [hvol, if_neg hl] at h
      cases h
    rw [hgeo, if_neg (by simpa [lost] using hl)]
  · have hfreed : k ∈ y.removalFrees d → (s.slot k).onDrive d = true ∧ (s.slot k).state = .resident ∧ (s.slot k).dirty = false :=
      fun h => ((hfree k).mp h).2
    have hstrands : k ∈ y.removalStrands d → (s.slot k).onDrive d = true ∧ (s.slot k).state = .resident ∧ (s.slot k).dirty = true :=
      fun h => ((hstrand k).mp h).2
    rw [hslot k hk]
    refine ⟨fun hon hres hdi => ?_, fun hon hres hdi => ?_, fun hon hres hdi hset => ?_, fun hstr => ?_, fun hoff => ?_⟩
    · rw [if_neg fun h => by simpa [hdi] using hfreed h, if_pos ((hstrand k).mpr ⟨hk, hon, hres, hdi⟩)]
      exact ⟨rfl, rfl, rfl⟩
    · rw [if_pos ((hfree k).mpr ⟨hk, hon, hres, hdi⟩)]
      exact ⟨rfl, rfl⟩
    · rw [if_neg fun h => by simpa [hdi] using hfreed h, if_pos ((hstrand k).mpr ⟨hk, hon, hres, hdi⟩), Slot.stranded_of_settled hset]
    · rw [if_neg fun h => by simpa [hstr] using hfreed h, if_neg fun h => by simpa [hstr] using hstrands h]
    · rw [if_neg fun h => by simpa [hoff] using hfreed h, if_neg fun h => by simpa [hoff] using hstrands h]
  · rw [hm]
    exact upd_get_ne s.drives _ (Ne.symm he)
  · rw [State.read_finish_outside (s := s) (u := w) rfl hb]
    have hkeep : Keeps s ((y.removalStrands d).foldl State.strandSlot y) :=
      Keeps.foldl (fun u k => (Keeps.refl u).strandSlot k) _ ⟨rfl, rfl, rfl, rfl, rfl, rfl, fun _ => rfl, id, fun _ _ => rfl, .inl rfl⟩
    exact hkeep.low a ha
  · rw [State.read_finish_outside (s := s) (u := w) rfl hb]
    have hmem : ((y.removalStrands d).foldl State.strandSlot y).mem = s.mem :=
      State.strandSlots_mem (State.slotsWhere_nodup _ _) fun k hk => by
        obtain ⟨hk, hon, hres, hdi⟩ := (hstrand k).mp hk
        exact hab k hk hon hres hdi
    exact congrArg (fun x => Memory.read x a) hmem

end Sys2Proof.Machine
end

section
/-! SUPPORT. Steps, recalibrations and settles of a seek, index pulses, and ID fields under the head. -/

namespace Sys2Proof.Machine

/-! ### Events that change one drive and leave nothing to be done -/

/-- A drive of a steady state changed in what the schedule does not read. -/
theorem State.Steady.schedule_same {s u : State} (h : s.Steady) (hp : u.phase = s.phase) {d : DriveNo} {f : Drive → Drive}
    (hd : u.drives = upd s.drives d f) (hq : (f s.drives[d]).queue = s.drives[d].queue)
    (hc : (f s.drives[d]).current = s.drives[d].current) (hw : (f s.drives[d]).watch ≠ none ↔ s.drives[d].watch ≠ none)
    (ha : (f s.drives[d]).atSpeed = s.drives[d].atSpeed) (hr : u.records = s.records) : u.schedule = u :=
  State.Steady.schedule (h.updSame hp hd hq ((h.2.1 d).1.of hq hc hw ha)
    (State.noDrain_congr h fun e => congrArg MountRecord.state (congrArg (·[e]) hr)))

/-- A state of a steady one with its drives and volumes. -/
theorem State.Steady.schedule_unchanged {s u : State} (h : s.Steady) (hp : u.phase = s.phase) (hd : u.drives = s.drives)
    (hr : u.records = s.records) : u.schedule = u :=
  State.Steady.schedule (h.sameDrives hp hd (State.noDrain_congr h fun e => congrArg MountRecord.state (congrArg (·[e]) hr)))

/-! ### Seeks -/

/-- A step given to a drive that another change has touched before. -/
theorem State.giveStep_updDrive (s : State) (d : DriveNo) (f : Drive → Drive) (inward : Bool) (m : Move) :
    (s.updDrive d f).giveStep d inward m = { s with drives := upd s.drives d (fun v =>
      { f v with step := some { inward := inward, due := s.now.ms + s.stepRate d }, move := m, moved := true }) } := by
  unfold State.giveStep State.updDrive
  dsimp only
  rw [upd_upd]
  rfl

/-- A seek that has come to a cylinder other than its target is given the next step (R82). -/
theorem State.stepStage_short {s : State} {d : DriveNo} {f : Drive → Drive} {o : Op} {h : Nat}
    (ho : (f s.drives[d]).currentOp = some o) (hh : (f s.drives[d]).head = some h) (hne : h ≠ o.cylinder) :
    (s.updDrive d f).stepStage d = { s with drives := upd s.drives d (fun v =>
      { f v with
        step := some { inward := decide (h < o.cylinder), due := s.now.ms + s.stepRate d }, move := .stepping, moved := true }) } := by
  have hg : (s.updDrive d f).drives[d] = f s.drives[d] := upd_get_same ..
  unfold State.stepStage
  rw [hg, ho]
  dsimp only
  rw [hh, Option.getD_some, if_neg hne, State.giveStep_updDrive]

/-- A seek with a loaded head that has come to its target settles if it took a step (R82). -/
theorem State.stepStage_settles {s : State} {d : DriveNo} {f : Drive → Drive} {o : Op}
    (ho : (f s.drives[d]).currentOp = some o) (hh : (f s.drives[d]).head = some o.cylinder)
    (hl : (f s.drives[d]).media = .loaded) (hm : (f s.drives[d]).moved = true) :
    (s.updDrive d f).stepStage d = { s with drives := upd s.drives d (fun v =>
      { f v with move := .settling (s.now.ms + s.settings.settle.toNat) }) } := by
  have hg : (s.updDrive d f).drives[d] = f s.drives[d] := upd_get_same ..
  have hkeep : (s.updDrive d f).updDrive d (fun v => if v.media = .running then { v with media := .loaded, moved := true } else v) =
      s.updDrive d f := by
    refine congrArg (fun ds => ({ s with drives := ds } : State)) (upd_same _ d ?_)
    rw [hg, hl]
    exact if_neg nofun
  unfold State.stepStage
  rw [hg, ho]
  dsimp only
  rw [hh, Option.getD_some, if_pos rfl]
  unfold State.loadStage
  rw [hkeep]
  unfold State.settleStage
  rw [hg, hm, if_pos rfl]
  exact congrArg (fun ds => ({ s with drives := ds } : State)) (upd_upd ..)

theorem Op.isCurrent_atTarget (o : Op) (now : Stamp) : (o.atTarget now).isCurrent = o.isCurrent := by
  unfold Op.atTarget Op.isCurrent
  split
  · rename_i h; rw [h]; rfl
  · rfl

/-- The operation of a drive whose seek has ended is its current one still (R82). -/
theorem Drive.currentOp_atTarget {v w : Drive} {now : Stamp} (hq : w.queue = v.queue.map (fun o => o.atTarget now)) :
    w.currentOp = v.currentOp.map (fun o => o.atTarget now) := by
  unfold Drive.currentOp
  rw [hq, List.find?_map]
  exact congrArg (fun p => (v.queue.find? p).map _) (funext fun o => o.isCurrent_atTarget now)

/-- Settles O44: the command is its event, and the stage that follows leaves the drive steady. -/
theorem seekAdvances : Obligations.SeekAdvances := by
  intro d pins o s hst ho hph
  have hstep : ∀ (u : StepUnderWay) (f : Drive → Drive), s.drives[d].step = some u → (f s.drives[d]).queue = s.drives[d].queue →
      (f s.drives[d]).current = s.drives[d].current → (f s.drives[d]).watch = s.drives[d].watch →
      (f s.drives[d]).media = s.drives[d].media →
      (((s.bumped.advance u.due).sense pins).stepDone d u =
        { (s.bumped.advance u.due).sense pins with drives := upd s.drives d f }) →
      ∃ t, exec (.stepComplete d pins) s = .next t ∧ t = { s with
        now := s.eventStampAt u.due, pins := pins, drives := upd s.drives d f, mem := t.mem } ∧ s.Stores t := by
    intro u f hu hq hc hw hm hdone
    obtain ⟨t, ht, hs⟩ := State.event_stores (s := s) (f := fun t => (((t.advance u.due).sense pins).stepDone d u).schedule)
      (u := { (s.bumped.advance u.due).sense pins with drives := upd s.drives d f })
      (by rw [hdone]
          exact hst.schedule_same rfl rfl hq hc (by rw [hw]) (by unfold Drive.atSpeed; rw [hm]) rfl) rfl rfl rfl
    refine ⟨t, ?_, hs⟩
    rw [exec_stepComplete, hu]
    exact congrArg _ ht
  refine ⟨fun u h h' hu hmove hh he => ?_, fun u n hu hmove hn ht0 hhead => ?_, fun due hmove hheld hpass => ?_⟩
  · let x : State := (s.bumped.advance u.due).sense pins
    have hreck : reckon s.drives[d].head u.inward = some h' := by rw [hh, he]; rfl
    have hdone : x.stepDone d u =
        (x.updDrive d (fun v => { v with step := none, head := reckon v.head u.inward })).stepStage d := by
      unfold State.stepDone
      rw [show x.drives[d].move = .stepping from hmove]
    refine ⟨fun hne => ?_, fun heq hmoved hload => ?_⟩
    · refine hstep u _ hu ?_ ?_ ?_ ?_ ?_
      rotate_left 4
      · rw [hdone, State.stepStage_short (s := x) (o := o) (h := h') ho hreck hne]
        refine congrArg (fun ds => ({ x with drives := ds } : State)) (upd_congr s.drives d ?_)
        rw [hreck, ← hmove]
        rfl
      all_goals rfl
    · refine hstep u _ hu ?_ ?_ ?_ ?_ ?_
      rotate_left 4
      · rw [hdone, State.stepStage_settles (s := x) (o := o) ho (hreck.trans (congrArg some heq)) hload hmoved]
        refine congrArg (fun ds => ({ x with drives := ds } : State)) (upd_congr s.drives d ?_)
        rw [hreck]
        rfl
      all_goals rfl
  · let x : State := (s.bumped.advance u.due).sense pins
    refine hstep u _ hu ?_ ?_ ?_ ?_ ?_
    rotate_left 4
    · have hdone : x.stepDone d u =
          (x.updDrive d (fun v => { v with step := none, head := reckon v.head u.inward })).giveStep d false
            (.recalibrating (n + 1)) := by
        unfold State.stepDone
        rw [show x.drives[d].move = .recalibrating n from hmove]
        dsimp only
        rw [if_neg (by rw [show x.pins = pins from rfl, ht0]; simp), if_neg (by unfold Config.recalibrationSteps; omega)]
      rw [hdone, State.giveStep_updDrive]
      refine congrArg (fun ds => ({ x with drives := ds } : State)) (upd_congr s.drives d ?_)
      rw [show reckon s.drives[d].head u.inward = s.drives[d].head by rw [hhead]; rfl]
      rfl
    all_goals rfl
  · let x : State := (s.bumped.advance due).sense pins
    let f : Drive → Drive := fun v =>
      { v with side := o.head, queue := v.queue.map (fun y => y.atTarget x.now), move := .idle, moved := false }
    let u : State := { x with drives := upd s.drives d f }
    have hsettled : x.settled d = u := by
      have hposition : x.position d = u := by
        refine congrArg (fun ds => ({ x with drives := ds } : State)) (upd_congr s.drives d ?_)
        rw [ho]
      unfold State.settled
      cases hp : x.pass with
      | none => exact hposition
      | some p => exact (if_neg (hpass p hp)).trans hposition
    have hsteady : u.Steady := by
      refine ⟨hst.1, fun e => ⟨?_, State.noDrain_congr hst (u := u) (fun _ => rfl) e⟩, .inl ?_⟩
      · show (upd s.drives d f)[e].Steady
        rw [upd_get]
        split
        · obtain ⟨h1, h2, h3⟩ := (hst.2.1 d).1
          have hop : (f s.drives[d]).currentOp = some (o.atTarget x.now) := by
            rw [Drive.currentOp_atTarget (v := s.drives[d]) (now := x.now) rfl, ho]
            rfl
          refine ⟨fun hno => ?_, ?_, ?_⟩
          · rw [hop] at hno; cases hno
          · rw [hop]; rw [ho] at h2; simpa using h2
          · rw [hop]; rw [ho] at h3; simpa using! h3
        · exact (hst.2.1 e).1
      · obtain ⟨e, y, hy, hyp⟩ := s.channelHeld_iff.mp hheld
        refine u.channelHeld_iff.mpr ⟨e, y, ?_, hyp⟩
        show y ∈ (upd s.drives d f)[e].queue
        rw [upd_get]
        split
        · rename_i hde
          subst hde
          refine List.mem_map.mpr ⟨y, hy, ?_⟩
          unfold Op.atTarget
          rw [hyp]
          exact if_neg nofun
        · exact hy
    obtain ⟨t, ht, hs⟩ := State.event_stores (s := s) (f := fun t => ((t.advance due).sense pins |>.settled d).schedule) (u := u)
      ((congrArg State.schedule hsettled).trans hsteady.schedule) rfl rfl rfl
    refine ⟨t, ?_, hs⟩
    rw [exec_settleEnd, hmove]
    exact congrArg _ ht

/-! ### Index pulses -/

/-- Settles O45: the watch and the count of the drive's pass. -/
theorem indexPulseRestartsWatch : Obligations.IndexPulseRestartsWatch := by
  intro d pins s hst hd hpass
  let x : State := s.bumped.sense pins
  let restart : Drive → Drive := fun v => { v with watch := v.watch.map (fun _ => x.now.ms) }
  let x1 : State := x.updDrive d restart
  let u : State := { x1 with pass := s.pass.map (fun p => if p.drive = d then { p with pulses := p.pulses + 1 } else p) }
  have hcount : (match x1.pass with
      | some p => if p.drive = d then x1.passPulse p else x1
      | none => x1) = u := by
    cases hp : s.pass with
    | none =>
      rw [show x1.pass = none from hp]
      exact congrArg (fun q => ({ x1 with pass := q } : State)) (by rw [hp]; exact hp)
    | some p =>
      rw [show x1.pass = some p from hp]
      dsimp only
      by_cases hpd : p.drive = d
      · obtain ⟨hrec, ⟨seen, hround⟩, hlt⟩ := hpass p hp hpd
        rw [if_pos hpd]
        unfold State.passPulse
        rw [hrec, if_neg (by simp), hround]
        unfold State.roundCheck
        dsimp only
        rw [if_neg (by omega)]
        exact congrArg (fun q => ({ x1 with pass := q } : State)) (by rw [hp, Option.map_some, if_pos hpd, hrec, hround])
      · rw [if_neg hpd]
        exact congrArg (fun q => ({ x1 with pass := q } : State)) (by rw [hp, Option.map_some, if_neg hpd]; exact hp)
  have hsched : x.pulse d = u := by
    refine (congrArg State.schedule hcount).trans ?_
    refine hst.schedule_same (u := u) (f := restart) rfl rfl rfl rfl ?_ rfl rfl
    exact not_congr Option.map_eq_none_iff
  obtain ⟨t, ht, hs⟩ := State.event_stores (s := s) (f := fun t => (t.sense pins).pulse d) hsched rfl rfl rfl
  refine ⟨t, ?_, hs⟩
  rw [exec_indexPulse, if_pos (by simpa [State.sensed] using hd)]
  exact congrArg _ ht

/-! ### ID fields -/

/-- A report of a pass applies to the slot it names. -/
theorem State.applies_of {s : State} {k : Nat} {key : Key} {gen : Byte} {st : SlotState} (hk : k < s.slots.length)
    (hst : (s.slot k).state = st) (hkey : (s.slot k).key = some key) (hgen : (s.slot k).generation = gen) :
    s.applies k key gen st = true := by
  unfold State.applies
  simp [hk, hst, hkey, hgen]

/-- A pass that neither recovers nor writes a field reads a field of its encoding. -/
theorem State.reads_of {s : State} {p : Pass} {mfm : Bool} (hr : p.recovering = false) (hw : s.writingField p.drive = false)
    (he : p.encoding = some mfm) : s.reads p mfm = true := by
  unfold State.reads
  rw [hr, hw, he]
  simp

/-- A pass over a track whose slot has no active sector writes no field. -/
theorem State.writingField_idle {s : State} {p : Pass} {k : Nat} {key : Key} {gen : Byte} {ids : List Nat} {size : Fin 4}
    {verify : Bool} (hp : s.pass = some p) (ht : p.target = .track k key gen ids size verify) (ha : (s.slot k).active = none) (d : DriveNo) :
    s.writingField d = false := by
  unfold State.writingField
  rw [hp]
  dsimp only
  rw [ht]
  dsimp only
  rw [ha]
  simp

/-- An ID field that a pass reads, where it awaits no data field. -/
theorem State.idField_passes {s : State} {p : Pass} {f : IdField} (hp : s.pass = some p) (hr : s.reads p f.mfm = true)
    (ha : p.awaited = none) : s.idField f = s.idPasses p f := by
  unfold State.idField
  rw [hp]
  dsimp only
  rw [if_pos hr]
  unfold State.missedField
  rw [ha]
  dsimp only
  rw [hp]

/-- Settles O47: each class of field, by what the pass does with it. -/
theorem idFieldClassified : Obligations.IdFieldClassified := by
  intro f pins p k key gen ids size verify s hst hp htarget hrec hactive hawait hmfm
  let x : State := s.bumped.sense pins
  have hreads : x.reads p f.mfm = true := by
    refine State.reads_of hrec (State.writingField_idle (s := x) hp htarget hactive _) ?_
    unfold Pass.encoding
    rw [htarget, hmfm]
    rfl
  have hevent : ∀ u : State, x.idPasses p f = u → u.schedule = u → u.phase = s.phase → u.straps = s.straps → u.mem = s.mem →
      ∃ t, exec (.idFieldRead f pins) s = .next t ∧ t = { u with mem := t.mem } ∧ s.Stores t := by
    intro u hu hsched h1 h2 h3
    obtain ⟨t, ht, hs⟩ := State.event_stores (s := s) (f := fun t => ((t.sense pins).idField f).schedule) (u := u)
      ((congrArg State.schedule ((State.idField_passes (s := x) hp hreads hawait).trans hu)).trans hsched) h1 h2 h3
    exact ⟨t, congrArg _ ht, hs⟩
  refine ⟨fun hbad => ?_, fun q hgood hcyl hhead hcode hq hk hkey hgen => ?_, fun hgood hcyl hrecals htrack => ?_⟩
  · refine hevent x ?_ (hst.schedule_unchanged rfl rfl rfl) rfl rfl rfl
    unfold State.idPasses Pass.classify
    rcases hbad with h | ⟨h1, h2⟩
    · rw [if_pos h]
    · by_cases hg : IdField.good f = false
      · rw [if_pos hg]
      · rw [if_neg hg, if_neg (not_not_intro h1), if_pos h2]
  · have hclass : x.idPasses p f = x.matched p f q := by
      unfold State.idPasses Pass.classify
      rw [if_neg (by rw [hgood]; simp), if_neg (not_not_intro hcyl), if_neg (not_not_intro hhead)]
      unfold Pass.classifyHere
      rw [htarget]
      dsimp only
      rw [if_neg (not_not_intro hcode), hq]
    refine ⟨fun seen hround hfill habs => ?_, fun todo written hround hmem hwr hout => ?_⟩
    · refine hevent (x.awaits p (some q)) (hclass.trans ?_) (hst.schedule_unchanged rfl rfl rfl) rfl rfl rfl
      unfold State.matched
      rw [htarget, hround]
      exact if_pos ⟨State.applies_of (s := x) hk hfill hkey hgen, habs⟩
    · refine hevent { x.updSlot k (fun t => { t with active := some q }) with
        fieldOut := some {
          drive := p.drive
          cylinder := p.cylinder
          head := p.head
          sectorId := f.sectorId.toNat
          field := DataField.ofBytes size (Memory.readRun x.mem (x.slotAddr k (q * sectorSize size)) (sectorSize size)) } }
        (hclass.trans ?_) (hst.schedule_unchanged rfl rfl rfl) rfl rfl rfl
      unfold State.matched
      rw [htarget, hround]
      dsimp only
      rw [if_pos (by simpa using hmem)]
      unfold State.beginSector
      exact if_pos ⟨State.applies_of (s := x) hk hwr hkey hgen, hout⟩
  · have hclass : x.idPasses p f = x.beginRecovery p := by
      unfold State.idPasses Pass.classify
      rw [if_neg (by rw [hgood]; simp), if_pos hcyl]
    let y : State := { x with pass := some { p with recals := p.recals + 1, recovering := true, awaited := none } }
    let stepped : Drive → Drive := fun v =>
      { v with
        moved := true
        move := .recalibrating 1
        step := some { inward := false, due := s.now.ms + s.stepRate p.drive } }
    refine hevent { y with drives := upd s.drives p.drive stepped } (hclass.trans ?_)
      (hst.schedule_same (f := stepped) rfl rfl rfl rfl Iff.rfl rfl rfl) rfl rfl rfl
    unfold State.beginRecovery
    rw [if_neg (by unfold Config.recoveryLimit; omega)]
    unfold State.beginRecal
    rw [if_neg (by show ¬ pins.track0.getLsbD p.drive.val = true; rw [htrack]; simp)]
    exact State.giveStep_updDrive y p.drive (fun v => { v with moved := true }) false (.recalibrating 1)

end Sys2Proof.Machine
end

section
/-! SUPPORT. Operations that end: the drive left without an operation, the index watch, and the label that completes a MOUNT. -/

namespace Sys2Proof.Machine

/-! ### A drive whose only operation has ended -/

/-- The schedule where one drive of a steady state has lost its only operation, and no other waits for a free channel: the
drive is given its notice alone. -/
theorem State.Steady.schedule_emptied {s u : State} (h : s.Steady) (hp : u.phase = s.phase) {d : DriveNo} {f : Drive → Drive}
    (hd : u.drives = upd s.drives d f) (hq : (f s.drives[d]).queue = []) (hv : ∀ e : DriveNo, u.NoDrain e)
    (harb : (∃ (e : DriveNo) (o : Op), e ≠ d ∧ o ∈ s.drives[e].queue ∧ o.phase = .transferring) ∨
      ∀ e : DriveNo, s.drives[e].positionedOp = none) :
    u.schedule = { u with drives := upd s.drives d (fun v => (f v).noticed u.now.ms u.settings.headUnloadMs) } := by
  have hsame : u.drives[d] = f s.drives[d] := by rw [hd, upd_get_same]
  have hother : ∀ e : DriveNo, e ≠ d → u.drives[e] = s.drives[e] := fun e he => by rw [hd, upd_get_ne _ _ (Ne.symm he)]
  have hno : u.drives[d].currentOp = none := Drive.currentOp_nil (by rw [hsame]; exact hq)
  have hnext : u.nextStep = none := by
    refine u.nextStep_eq_none.mpr ⟨fun e => State.volumeStep_none (hv e), State.drainStep_none (hp.trans h.1), fun e => ?_, ?_⟩
    · by_cases he : e = d
      · subst he; exact State.selectStep_steady fun _ => by rw [hsame]; exact hq
      · exact State.selectStep_steady (by rw [hother e he]; exact (h.2.1 e).1.1)
    · rcases harb with ⟨e, o, he, ho, hph⟩ | hpos
      · exact State.arbiterStep_held (State.channelHeld_of (d := e) (by rw [hother e he]; exact ho) hph)
      · refine State.arbiterStep_none fun e => ?_
        by_cases he : e = d
        · subst he; exact Drive.positionedOp_of_none hno
        · rw [hother e he]; exact hpos e
  rw [State.schedule_none hnext, State.notices_one (d := d) fun e he => by rw [hother e he]; exact (h.2.1 e).1, hd, upd_upd]

theorem Drive.watchAt_none {v : Drive} (h : v.currentOp = none) (now : Nat) : v.watchAt now = { v with watch := none } := by
  unfold Drive.watchAt
  rw [h, Option.isSome_none, Bool.and_false, if_neg (by simp)]

/-- The notice of a drive that has lost its operation (R107, R116). -/
theorem Drive.noticed_lost {v : Drive} (hq : v.queue = []) (hc : v.current = true) (now delay : Nat) :
    v.noticed now delay = { v.lose now delay with watch := none } := by
  unfold Drive.noticed
  rw [hc, Drive.currentOp_nil hq]
  exact Drive.watchAt_none (Drive.currentOp_nil ((v.lose_queue now delay).trans hq)) now

/-- The event in which the only operation of a loaded drive ends, with no other drive waiting for the channel (R86, R116). -/
theorem State.Steady.schedule_workEnded {s u : State} (h : s.Steady) (hp : u.phase = s.phase) (hset : u.settings = s.settings)
    {d : DriveNo} {o : Op} (hq : s.drives[d].queue = [o]) (ho : o.phase = .transferring) (hm : s.drives[d].media = .loaded)
    (hdelay : s.settings.headUnload ≠ 0) (hpos : ∀ e : DriveNo, s.drives[e].positionedOp = none)
    (hd : u.drives = upd s.drives d (fun v => { v with queue := [], move := .idle, moved := false }))
    (hv : ∀ e : DriveNo, u.NoDrain e) :
    u.schedule = { u with drives := upd s.drives d (fun v => v.workEnded u.now.ms) } := by
  rw [h.schedule_emptied hp hd rfl hv (.inr hpos)]
  refine congrArg (fun ds => ({ u with drives := ds } : State)) (upd_congr s.drives d ?_)
  have hcur : s.drives[d].current = true := (h.2.1 d).1.2.1.mpr (by
    unfold Drive.currentOp Op.isCurrent
    rw [hq, List.find?_cons_of_pos (by rw [ho]; decide)]
    exact nofun)
  have hms : u.settings.headUnloadMs ≠ 0 := by
    have : s.settings.headUnload.toNat ≠ 0 := fun e => hdelay (BitVec.eq_of_toNat_eq e)
    rw [hset]; unfold Settings.headUnloadMs; omega
  rw [Drive.noticed_lost rfl (by exact hcur)]
  unfold Drive.lose Drive.workEnded
  dsimp only
  rw [hm]
  dsimp only
  rw [if_neg hms]

/-- The only operation of a drive ends with its pass (R86). -/
theorem State.endOp_only {s : State} {d : DriveNo} {o : Op} (hq : s.drives[d].queue = [o]) {slot : Option Nat}
    (hs : o.work.slot? = slot) : s.endOp d slot = { s with
      drives := upd s.drives d (fun v => { v with queue := [], move := .idle, moved := false }), pass := none } := by
  unfold State.endOp State.removeOp State.updDrive
  dsimp only
  rw [upd_upd]
  refine congrArg (fun ds => ({ s with drives := ds, pass := none } : State)) (upd_congr s.drives d ?_)
  rw [hq, List.filter_cons_of_neg (by simp [hs]), List.filter_nil]

/-! ### The index watch -/

/-- A failure in the seek of a drive's only operation: the motor stops, the operation is gone, the fault is reported (R83,
R109, R118). -/
def State.seekFailed (s : State) (d : DriveNo) (o : Op) (f : DriveFailure) : State :=
  { s with
    drives := upd s.drives d (fun v => { v.motorStop with queue := [] })
    faults := upd s.faults (Fin.castSucc d) (fun r =>
      r.take { code := f.code, requester := none, cylinder := some o.cylinder, head := some o.head, sectorId := none }) }

/-- What follows tells the requester of the operation. -/
theorem State.opFailed_seeking {s : State} {d : DriveNo} {o : Op} (hq : s.drives[d].queue = [o]) (ho : o.phase = .seeking)
    (f : DriveFailure) : s.opFailed d f = match o.work with
      | .fill k _ =>
        ((s.seekFailed d o f).failFillWaiters { drive := d, cylinder := o.cylinder, head := o.head } f).fillStoppedFully d k
      | .write k _ evict => (((s.seekFailed d o f).failWrite k).afterWrite d k evict .failed).discardIfPending d
      | .probe => (s.seekFailed d o f).probeEnded d (.failed f) := by
  have hcur : s.drives[d].currentOp = some o := by
    unfold Drive.currentOp Op.isCurrent
    rw [hq, List.find?_cons_of_pos (by rw [ho]; decide)]
  have hremoved : (s.updDrive d (fun v => v.motorStop)).removeOp d o.work.slot? =
      { s with drives := upd s.drives d (fun v => { v.motorStop with queue := [] }) } := by
    unfold State.removeOp State.updDrive
    dsimp only
    rw [upd_upd]
    refine congrArg (fun ds => ({ s with drives := ds } : State)) (upd_congr s.drives d ?_)
    unfold Drive.motorStop
    dsimp only
    rw [hq, List.filter_cons_of_neg (by simp), List.filter_nil]
  unfold State.opFailed
  rw [hcur]
  dsimp only
  rw [if_neg (by rw [ho]; exact nofun), hremoved]
  rfl

/-- A FILL that stops frees a slot without a DIRTY sector (R51). -/
theorem State.fillStoppedFully_clean {s : State} {k : Nat} (hf : (s.slot k).state = .filling) (hd : (s.slot k).dirty = false)
    (d : DriveNo) : s.fillStoppedFully d k = (s.freeSlot k).releaseEvent none := by
  unfold State.fillStoppedFully State.fillStopped
  simp [hf, hd]

/-- A failed fill leaves no requester waiting for a slot that did not. -/
theorem WaiterEntry.slotWait_failFill {e : WaiterEntry} (h : e.slotWait? = none) (key : Key) (f : DriveFailure) :
    (e.failFill key f).slotWait? = none := by
  cases e with
  | wait w =>
    unfold WaiterEntry.failFill
    dsimp only
    split
    · rfl
    · exact h
  | _ => exact h

/-- The index watch expires in the seek of a drive's only operation, which leaves its drive so. -/
theorem State.Steady.schedule_watchFailed {s u : State} (h : s.Steady) (hp : u.phase = s.phase) {d : DriveNo} {o : Op}
    {t0 : Nat} (hw : s.drives[d].watch = some t0) (hq : s.drives[d].queue = [o]) (ho : o.phase = .seeking)
    (hd : u.drives = upd s.drives d (fun v => { v.motorStop with queue := [] })) (hv : ∀ e : DriveNo, u.NoDrain e) :
    u.schedule = { u with drives := upd s.drives d (fun v =>
      { v with
        queue := []
        media := .stopped
        spinUp := none
        headUnload := none
        motorIdle := none
        move := .idle
        moved := false
        watch := none
        current := false }) } := by
  obtain ⟨hspeed, hop⟩ := (h.2.1 d).1.2.2.mp (by rw [hw]; exact nofun)
  have harb : (∃ (e : DriveNo) (x : Op), e ≠ d ∧ x ∈ s.drives[e].queue ∧ x.phase = .transferring) ∨
      ∀ e : DriveNo, s.drives[e].positionedOp = none := by
    refine h.2.2.imp (fun hheld => ?_) id
    obtain ⟨e, x, hx, hxp⟩ := s.channelHeld_iff.mp hheld
    refine ⟨e, x, fun he => ?_, hx, hxp⟩
    subst he
    rw [hq, List.mem_singleton] at hx
    subst hx
    have := ho.symm.trans hxp
    cases this
  rw [h.schedule_emptied hp hd rfl hv harb]
  refine congrArg (fun ds => ({ u with drives := ds } : State)) (upd_congr s.drives d ?_)
  have hstopped : s.drives[d].motorStop.media = .stopped := by
    refine if_pos ?_
    unfold Drive.atSpeed at hspeed
    unfold Drive.motorOn
    rcases Bool.or_eq_true_iff.mp hspeed with e | e <;> simp only [decide_eq_true_eq] at e <;> rw [e] <;> rfl
  rw [Drive.noticed_lost rfl (by exact (h.2.1 d).1.2.1.mpr hop)]
  unfold Drive.lose
  rw [show ({ s.drives[d].motorStop with queue := [] } : Drive).media = .stopped from hstopped]
  unfold Drive.motorStop at hstopped ⊢
  dsimp only at hstopped ⊢

theorem State.probeEnded_mounting {s : State} {d : DriveNo} (h : s.volume d = .mounting) (r : ProbeResult) :
    s.probeEnded d r = s.mountEnd d r := by
  unfold State.probeEnded
  rw [h]

/-- Settles O46: the failure of the seek, then the notice of the motor that has stopped. -/
theorem indexWatchFailsMount : Obligations.IndexWatchFailsMount := by
  have hexec : ∀ (d : DriveNo) (pins : Pins) (t0 : Nat) (s : State), s.drives[d].watch = some t0 →
      exec (.indexWatchExpiry d pins) s =
        .next (s.finish ((((s.bumped.advance (t0 + 500)).sense pins).opFailed d .noIndex).schedule)) := by
    intro d pins t0 s hw
    rw [exec_indexWatchExpiry]
    unfold State.watchExpires
    rw [hw]
    rfl
  refine ⟨fun d pins o t0 s hst hw hq hwork hph hvol => ?_, fun d pins o k gen key t0 s hst hw hq hwork hph hkey hk hfill hk' hdirty hwait => ?_⟩
  · let x : State := (s.bumped.advance (t0 + 500)).sense pins
    let unmounted : MountRecord → MountRecord := fun m =>
      { m with
        state := .unmounted, outcome := .noIndex, progress := none, flushSet := [], flushFailed := false, pendingDiscard := false,
        host := { m.host with guardLock := false } }
    let u : State := { x with
      drives := upd s.drives d (fun v => { v.motorStop with queue := [] })
      faults := upd s.faults (Fin.castSucc d) (fun r =>
        r.take { code := .noIndex, requester := none, cylinder := some o.cylinder, head := some o.head, sectorId := none })
      records := upd s.records d unmounted
      geometry := upd s.geometry d (fun _ => none) }
    have hfailed : x.opFailed d .noIndex = u := by
      rw [State.opFailed_seeking (s := x) hq hph, hwork]
      refine (State.probeEnded_mounting (s := x.seekFailed d o .noIndex) hvol _).trans ?_
      unfold State.mountEnd State.unmount State.setOutcome State.updRecord
      dsimp only
      rw [upd_upd]
      rfl
    rw [hexec d pins t0 s hw, hfailed, hst.schedule_watchFailed (u := u) rfl hw hq hph rfl
      (hst.noDrain_upd (f := unmounted) rfl ⟨nofun, nofun⟩)]
    exact ⟨_, rfl, State.finish_stores rfl rfl rfl⟩
  · let x : State := (s.bumped.advance (t0 + 500)).sense pins
    let u : State := { x with
      drives := upd s.drives d (fun v => { v.motorStop with queue := [] })
      faults := upd s.faults (Fin.castSucc d) (fun r =>
        r.take { code := .noIndex, requester := none, cylinder := some o.cylinder, head := some o.head, sectorId := none })
      waiters := updAll s.waiters (fun e => e.failFill key .noIndex)
      slots := s.slots.modify k Slot.freed
      recency := s.recency.erase k
      freeList := s.freeList ++ [k] }
    have hquiet : u.NoSlotWaits := fun r => by
      unfold State.slotWait
      rw [show u.waiters = updAll s.waiters (fun e => e.failFill key .noIndex) from rfl, updAll_get]
      exact WaiterEntry.slotWait_failFill (hwait r) key _
    have hfailed : x.opFailed d .noIndex = u := by
      rw [State.opFailed_seeking (s := x) hq hph, hwork]
      dsimp only
      rw [← hkey, State.fillStoppedFully_clean (by exact hfill) (by exact hdirty)]
      exact State.releaseEvent_quiet hquiet none
    rw [hexec d pins t0 s hw, hfailed, hst.schedule_watchFailed (u := u) rfl hw hq hph rfl (State.noDrain_congr hst fun _ => rfl)]
    obtain ⟨heq, hstores⟩ := State.finish_stores (s := s) (u := { u with drives := upd s.drives d (fun v =>
      { v with
        queue := [], media := .stopped, spinUp := none, headUnload := none, motorIdle := none, move := .idle, moved := false,
        watch := none, current := false }) }) rfl rfl rfl
    refine ⟨_, rfl, heq.trans ?_, hstores⟩
    refine congrArg (fun ws => ({ u with waiters := ws, drives := _, mem := _ } : State)) ?_
    exact congrArg (updAll s.waiters) (funext fun e => by cases e <;> rfl)

/-! ### The label -/

/-- Settles O51: the PROBE ends in its pass, and the MOUNT with it. -/
theorem goodLabelCompletesMount : Obligations.GoodLabelCompletesMount := by
  intro f pins p asked size o x g s hst hp htarget hround hrec hawait hmfm hmark hlen hgood hvol hq hwork hph hm hdelay hpos hg
  let y : State := s.bumped.sense pins
  let done : MountRecord → MountRecord := fun m =>
    { m with
      state := .mounted, outcome := .done, effSize := size, effInterleave := g.interleave, effSkew := g.skew,
      stamp := some (stampOf f.bytes), generation := m.generation + 1, progress := none }
  let u : State := { y with
    pass := none
    probeBuffer := f.bytes ++ s.probeBuffer.drop f.bytes.length
    records := upd s.records p.drive done
    geometry := upd s.geometry p.drive (fun _ => some g)
    drives := upd s.drives p.drive (fun v => { v with queue := [], move := .idle, moved := false }) }
  have hreads : y.reads p f.mfm = true := by
    refine State.reads_of hrec ?_ ?_
    · unfold State.writingField
      rw [show y.pass = some p from hp]
      dsimp only
      rw [htarget]
      simp
    · unfold Pass.encoding
      rw [htarget, hround, hmfm]
      rfl
  have hend : y.labelField f = u := by
    unfold State.labelField
    rw [show y.pass = some p from hp]
    dsimp only
    rw [htarget, hround, hawait]
    dsimp only
    rw [if_neg (by rw [hreads]; simp), if_neg (not_not_intro hmark), if_neg (by unfold DataField.isSector; simp [hlen, hmark]),
      if_pos hgood]
    unfold State.probeEnd
    rw [State.endOp_only (by exact hq) (by rw [hwork]; rfl)]
    refine (State.probeEnded_mounting (by exact hvol) _).trans ?_
    unfold State.mountEnd State.updRecord
    dsimp only
    rw [← show g = y.records[p.drive].latched.geometry size from hg]
    refine congrArg (fun rs => ({ u with records := rs } : State)) (upd_congr s.records p.drive ?_)
    have hsize : g.size = size := by rw [hg]
    unfold MountRecord.mounted
    rw [hsize]
    rfl
  have hsched : (y.labelField f).schedule = { u with drives := upd s.drives p.drive (fun v => v.workEnded s.now.ms) } := by
    rw [hend]
    exact hst.schedule_workEnded (u := u) rfl rfl hq hph hm hdelay hpos rfl (hst.noDrain_upd (f := done) rfl ⟨nofun, nofun⟩)
  obtain ⟨t, ht, hs⟩ := State.event_stores (s := s) (f := fun t => ((t.sense pins).labelField f).schedule) hsched rfl rfl rfl
  exact ⟨t, congrArg _ ht, hs⟩

end Sys2Proof.Machine
end

section
/-! SUPPORT. Sectors of a slot, and the data fields of fill, write and verify rounds up to the end of their pass. -/

namespace Sys2Proof.Machine

/-! ### Sectors of a slot -/

theorem Slot.sector_setSector (t : Slot) (p j : Nat) (f : Sector → Sector) :
    (t.setSector p f).sector j = if p = j ∧ j < t.sectors.length then f (t.sector j) else t.sector j := by
  unfold Slot.sector Slot.setSector
  dsimp only
  simp only [List.getD_eq_getElem?_getD, List.getElem?_modify]
  by_cases hj : j < t.sectors.length
  · by_cases hp : p = j <;> simp [hj, hp]
  · simp [hj]

theorem Slot.length_setSector (t : Slot) (p : Nat) (f : Sector → Sector) :
    (t.setSector p f).sectors.length = t.sectors.length := List.length_modify ..

/-- A sector of a slot is the entry at its position. -/
theorem Slot.sector_eq_getElem {t : Slot} {j : Nat} (h : j < t.sectors.length) : t.sector j = t.sectors[j] := by
  unfold Slot.sector
  rw [List.getD_eq_getElem _ _ h]

theorem Slot.forall_mem_sectors {t : Slot} {P : Sector → Prop} :
    (∀ e ∈ t.sectors, P e) ↔ ∀ j, j < t.sectors.length → P (t.sector j) := by
  refine ⟨fun h j hj => ?_, fun h e he => ?_⟩
  · rw [Slot.sector_eq_getElem hj]; exact h _ (List.getElem_mem hj)
  · obtain ⟨j, hj, rfl⟩ := List.mem_iff_getElem.mp he
    rw [← Slot.sector_eq_getElem hj]; exact h j hj

theorem Slot.holds_iff {t : Slot} {st : SectorState} : t.holds st = true ↔ ∃ j, j < t.sectors.length ∧ (t.sector j).state = st := by
  unfold Slot.holds
  rw [List.any_eq_true]
  refine ⟨fun ⟨e, he, hs⟩ => ?_, fun ⟨j, hj, hs⟩ => ?_⟩
  · obtain ⟨j, hj, rfl⟩ := List.mem_iff_getElem.mp he
    exact ⟨j, hj, by rw [Slot.sector_eq_getElem hj]; simpa using hs⟩
  · exact ⟨_, List.getElem_mem hj, by rw [← Slot.sector_eq_getElem hj]; simpa using hs⟩

theorem Slot.holds_eq_false_iff {t : Slot} {st : SectorState} :
    t.holds st = false ↔ ∀ j, j < t.sectors.length → (t.sector j).state ≠ st := by
  rw [← Bool.not_eq_true, Slot.holds_iff]
  simp

/-- A map that leaves every sector as it is. -/
theorem Slot.mapSectors_id {t : Slot} {f : Sector → Sector} (h : ∀ j, j < t.sectors.length → f (t.sector j) = t.sector j) :
    t.mapSectors f = t := by
  unfold Slot.mapSectors
  rw [show t.sectors.map f = t.sectors from
    (List.map_congr_left (Slot.forall_mem_sectors.mpr h)).trans (List.map_id' _)]

/-- The only position of a slot whose sector is in a state. -/
theorem Slot.positions_single {t : Slot} {st : SectorState} {q : Nat} (hq : q < t.sectors.length)
    (h : ∀ j, j < t.sectors.length → ((t.sector j).state = st ↔ j = q)) : t.positions st = [q] := by
  have hsame : t.positions st = (List.range t.sectors.length).filter (· == q) :=
    List.filter_congr fun j hj => by
      rw [Bool.eq_iff_iff]
      simpa using h j (List.mem_range.mp hj)
  rw [hsame, List.filter_beq, List.count_eq_one_of_mem List.nodup_range (List.mem_range.mpr hq), List.replicate_one]

theorem Slot.positions_nil {t : Slot} {st : SectorState} (h : ∀ j, j < t.sectors.length → (t.sector j).state ≠ st) :
    t.positions st = [] := by
  unfold Slot.positions
  rw [List.filter_eq_nil_iff]
  intro j hj
  simpa using h j (List.mem_range.mp hj)

/-- Two changes of one slot. -/
theorem State.updSlot_updSlot (s : State) (k : Nat) (f g : Slot → Slot) :
    (s.updSlot k f).updSlot k g = s.updSlot k (fun t => g (f t)) :=
  congrArg (fun l => ({ s with slots := l } : State)) (List.modify_modify_eq ..)

/-- Two changes of a slot that agree on its entry. -/
theorem State.updSlot_congr {s : State} {k : Nat} {f g : Slot → Slot} (h : f (s.slot k) = g (s.slot k)) :
    s.updSlot k f = s.updSlot k g := congrArg (fun l => ({ s with slots := l } : State)) (modify_congr_getD _ _ _ h)

/-! ### The end of a fill and of a WRITE, with nothing else asked for -/

theorem State.writingOut_false {s : State} {d : DriveNo} (h : s.NoDrain d) : s.writingOut d = false := by
  unfold State.writingOut
  simp [h.1, h.2]

theorem State.askAgain_none {s : State} {d : DriveNo} (h : s.NoDrain d) (k : Nat) : s.askAgain d k = s := by
  unfold State.askAgain
  dsimp only
  rw [State.writingOut_false h, if_neg (by simp)]

/-- The end of a WRITE pass that leaves its slot clean, with no flush, freeze or slot-waiter (R140, R144, R145). -/
theorem State.afterWrite_clean {s : State} {d : DriveNo} {k : Nat} (hdrain : s.NoDrain d) (hflush : s.records[d].flushSet = [])
    (hsince : (s.slot k).dirtySince = none) (hclean : (s.slot k).dirty = false) (hwait : s.NoSlotWaits) (evict : Bool) :
    s.afterWrite d k evict .finished = s := by
  have hf : s.flushEnd d k .finished = s := by
    unfold State.flushEnd
    rw [hflush]
    rfl
  have hz : s.freezeEnd d k .finished = s := by
    unfold State.freezeEnd
    rw [State.writingOut_false hdrain, if_neg (by simp)]
  have ha : s.ageCheck k = s := State.ageCheck_none (.inr (.inr fun m hm => by rw [hsince] at hm; cases hm))
  unfold State.afterWrite
  dsimp only
  rw [hf, hz, State.askAgain_none hdrain, ha, if_pos hclean, if_neg nofun, State.releaseEvent_quiet hwait]

/-- The end of a fill whose slot has no pending write and is not yet due for its write-back (R139, R140). -/
theorem State.afterFill_quiet {s : State} {d : DriveNo} {k : Nat} (hdrain : s.NoDrain d) (hpend : (s.slot k).pendingWrite = none)
    (hage : ∀ m, (s.slot k).dirtySince = some m → s.now.ms < m + s.settings.ageMs) : s.afterFill d k = s := by
  have hc : s.carryPending d k = s := by
    unfold State.carryPending
    rw [hpend]
  unfold State.afterFill
  rw [hc, State.askAgain_none hdrain, State.ageCheck_none (.inr (.inr hage))]

/-- A slot after its WRITE pass, every sector written (R55). -/
def Slot.written (t : Slot) : Slot := { t with state := .resident, dirtySince := none, yields := 0, active := none }

/-- A WRITE pass that is its drive's only operation ends with every sector of its slot written (R55, R86, R102). -/
theorem State.writeEnd_only {s : State} {p : Pass} {k : Nat} {key : Key} {gen : Byte} {ids : List Nat} {size : Fin 4} {verify : Bool}
    {o : Op} (ht : p.target = .track k key gen ids size verify) (hk : k < s.slots.length) (hst : (s.slot k).state = .writing)
    (hkey : (s.slot k).key = some key) (hgen : (s.slot k).generation = gen)
    (hsec : ∀ j, ((s.slot k).sector j).state = .valid ∨ ((s.slot k).sector j).state = .damaged)
    (hq : s.drives[p.drive].queue = [o]) (ho : o.work.slot? = some k) (hdrain : s.NoDrain p.drive)
    (hflush : s.records[p.drive].flushSet = []) (hwait : s.NoSlotWaits) :
    s.writeEnd p = { s.updSlot k Slot.written with
      drives := upd s.drives p.drive (fun v => { v with queue := [], move := .idle, moved := false }), pass := none } := by
  have hundo : (s.slot k).mapSectors Sector.undo = s.slot k := Slot.mapSectors_id fun j _ => by
    unfold Sector.undo
    rcases hsec j with e | e <;> rw [e] <;> rfl
  have hclean : (s.slot k).dirty = false := Slot.holds_eq_false_iff.mpr fun j _ e => by
    rcases hsec j with e' | e' <;> rw [e'] at e <;> cases e
  have hends : s.updSlot k (fun t => t.passEnds s.now.ms) = s.updSlot k Slot.written := by
    refine State.updSlot_congr ?_
    unfold Slot.passEnds
    rw [hundo]
    dsimp only
    rw [hclean, if_neg (by simp)]
    rfl
  have hslot : (s.updSlot k Slot.written).slot k = (s.slot k).written := State.slot_updSlot_same hk
  unfold State.writeEnd
  rw [ht]
  dsimp only
  rw [if_pos (State.applies_of hk hst hkey hgen), hends, State.endOp_only (s := s.updSlot k Slot.written) hq ho]
  refine State.afterWrite_clean (by exact hdrain) (by exact hflush) ?_ ?_ (by exact hwait) _
  · exact congrArg Slot.dirtySince hslot
  · exact (congrArg Slot.dirty hslot).trans hclean

/-- The event in which it does, in a state steady before. -/
theorem State.Steady.write_done {s y : State} (h : s.Steady) (hp : y.phase = s.phase) (hset : y.settings = s.settings)
    (hdr : y.drives = s.drives) (hr : y.records = s.records) (hw : y.waiters = s.waiters) {p : Pass} {k : Nat} {key : Key} {gen : Byte}
    {ids : List Nat} {size : Fin 4} {verify : Bool}
    (ht : p.target = .track k key gen ids size verify) (hk : k < y.slots.length) (hst : (y.slot k).state = .writing)
    (hkey : (y.slot k).key = some key) (hgen : (y.slot k).generation = gen)
    (hsec : ∀ j, ((y.slot k).sector j).state = .valid ∨ ((y.slot k).sector j).state = .damaged)
    (hflush : s.records[p.drive].flushSet = []) (hwait : s.NoSlotWaits) (honly : s.OnlyOperation p.drive k) :
    (y.writeEnd p).schedule = { y.updSlot k Slot.written with
      drives := upd s.drives p.drive (fun v => v.workEnded y.now.ms), pass := none } := by
  obtain ⟨⟨o, hq, ho, hph⟩, hm, hdelay, hpos⟩ := honly
  have hdrain : ∀ e : DriveNo, y.NoDrain e := State.noDrain_congr h fun e => congrArg MountRecord.state (congrArg (·[e]) hr)
  rw [State.writeEnd_only (s := y) ht hk hst hkey hgen hsec (by rw [hdr]; exact hq) ho (hdrain _) (by rw [hr]; exact hflush)
    (fun r => by unfold State.slotWait; rw [hw]; exact hwait r)]
  exact h.schedule_workEnded (u := { y.updSlot k Slot.written with
      drives := upd y.drives p.drive (fun v => { v with queue := [], move := .idle, moved := false }), pass := none })
    hp hset hq hph hm hdelay hpos (by rw [← hdr]) hdrain

/-! ### The data field of a fill -/

/-- A pass that reads a track reads a field of its encoding (R90). -/
theorem State.reads_track {s : State} {p : Pass} {k : Nat} {key : Key} {gen : Byte} {ids : List Nat} {size : Fin 4} {verify mfm : Bool}
    (hp : s.pass = some p) (ht : p.target = .track k key gen ids size verify) (hr : p.recovering = false)
    (ha : (s.slot k).active = none) (hm : mfm = decide (size ≠ 0)) : s.reads p mfm = true := by
  refine State.reads_of hr (State.writingField_idle hp ht ha _) ?_
  unfold Pass.encoding
  rw [ht, hm]
  rfl

theorem isSector_of {f : DataField} {size : Fin 4} (hm : f.mark = .data) (hl : f.bytes.length = sectorSize size) :
    DataField.isSector f size = true := by
  unfold DataField.isSector
  simp [hm, hl]

/-- The bytes of a data field in their sector of a slot, the sector VALID where the CRC is good (R49). -/
def State.arrived (s : State) (k q : Nat) (size : Fin 4) (f : DataField) : State :=
  { s with
    mem := Memory.store s.mem (s.slotAddr k (q * sectorSize size)) f.bytes
    slots := if DataField.good f = true then s.slots.modify k (fun x => x.setSector q (fun _ => { state := .valid, report := false }))
      else s.slots }

theorem State.slot_arrived {s : State} {k : Nat} (hk : k < s.slots.length) (q : Nat) (size : Fin 4) (f : DataField) :
    (s.arrived k q size f).slot k = if DataField.good f = true
      then (s.slot k).setSector q (fun _ => { state := .valid, report := false }) else s.slot k := by
  unfold State.arrived
  split
  · exact State.slot_updSlot_same hk
  · rfl

/-- The data field of the sector awaited during a FILL, of which it is the first (R49, R97, R98). -/
theorem State.fillField_arrives {s : State} {f : DataField} {p : Pass} {k : Nat} {key : Key} {gen : Byte} {ids : List Nat} {size : Fin 4}
    {verify : Bool} {seen : List Nat} {q : Nat} (hp : s.pass = some p) (ht : p.target = .track k key gen ids size verify)
    (hr : p.recovering = false) (ha : (s.slot k).active = none) (hround : p.round = .reading seen) (hawait : p.awaited = some q)
    (hm : f.mfm = decide (size ≠ 0)) (hmark : f.mark = .data) (hlen : f.bytes.length = sectorSize size) (hk : k < s.slots.length)
    (hst : (s.slot k).state = .filling) (hkey : (s.slot k).key = some key) (hgen : (s.slot k).generation = gen)
    (habs : ((s.slot k).sector q).state = .absent) : s.fillField f =
      if ((s.arrived k q size f).slot k).holds .absent = true
      then { s.arrived k q size f with pass := some { p with round := .reading (markSeen seen q), awaited := none } }
      else ({ s.arrived k q size f with pass := some { p with round := .reading (markSeen seen q), awaited := none } } : State).fillEnd
        { p with round := .reading (markSeen seen q), awaited := none } := by
  have harr : ({ s with pass := some { p with round := .reading (markSeen seen q), awaited := none } } : State).arrives
      k key gen size q f = { s.arrived k q size f with pass := some { p with round := .reading (markSeen seen q), awaited := none } } := by
    unfold State.arrives State.arrived
    rw [if_pos ⟨State.applies_of (by exact hk) hst hkey hgen, habs⟩]
    dsimp only
    split <;> rfl
  unfold State.fillField
  rw [hp]
  dsimp only
  rw [ht, hround, hawait]
  dsimp only
  rw [if_neg (by rw [State.reads_track hp ht hr ha hm]; simp), if_neg (not_not_intro hmark),
    if_neg (by rw [isSector_of hmark hlen]; simp)]
  rw [← ht, harr]
  rfl

/-- A slot address and what follows it lie outside the Control Block. -/
theorem State.slotAddr_above (s : State) {k w a : Nat} (h : s.inControlBlock a) : a < s.slotAddr k w := by
  have := s.straps.cb_below_pool
  have hle : s.straps.poolBase ≤ s.slotAddr k w := by
    unfold State.slotAddr
    rw [Nat.add_assoc]
    exact Nat.le_add_right _ _
  unfold State.inControlBlock at h
  omega

/-- The event of a data field whose bytes go into a slot. -/
theorem State.finish_arrived {s u : State} (hp : u.phase = s.phase) (hs : u.straps = s.straps) {k q : Nat} {size : Fin 4}
    {f : DataField} (hlen : f.bytes.length = sectorSize size)
    (hm : u.mem = Memory.store s.mem (s.slotAddr k (q * sectorSize size)) f.bytes) :
    s.finish u = { u with mem := (s.finish u).mem } ∧
      (∀ a, ¬ s.inControlBlock a → Memory.read (s.finish u).mem a =
        if s.slotAddr k (q * sectorSize size) ≤ a ∧ a < s.slotAddr k (q * sectorSize size) + sectorSize size
        then f.bytes.getD (a - s.slotAddr k (q * sectorSize size)) 0 else Memory.read s.mem a) ∧
      ∀ o, o < 512 → (s.finish u).shown o = s.refreshed (s.finish u) o := by
  have hread : ∀ a, Memory.read u.mem a =
      if s.slotAddr k (q * sectorSize size) ≤ a ∧ a < s.slotAddr k (q * sectorSize size) + sectorSize size
      then f.bytes.getD (a - s.slotAddr k (q * sectorSize size)) 0 else Memory.read s.mem a := fun a => by
    rw [hm, Memory.read_store, hlen]
    rfl
  obtain ⟨heq, hout, hin⟩ := State.finish_outside hp hs fun a ha => by
    rw [hread, if_neg (Nat.not_le.mpr (s.slotAddr_above ha) ·.1)]
  exact ⟨heq, fun a ha => (hout a ha).trans (hread a), hin⟩

/-- No ABSENT sector, no bytes of an unread one (R50). -/
theorem State.fillAbsent_none {s : State} {k : Nat} (h : ∀ j, j < (s.slot k).sectors.length → ((s.slot k).sector j).state ≠ .absent)
    (size : Nat) (q : Nat → Bool) : s.fillAbsent k size q = s := by
  have key : ∀ (js : List Nat) (m : List Host.Cell), (∀ j ∈ js, ((s.slot k).sector j).state ≠ .absent) →
      js.foldl (fun m p => if ((s.slot k).sector p).state = .absent ∧ q p = true then
        Memory.store m (s.slotAddr k (p * size)) (List.replicate size 0xFF#8) else m) m = m := by
    intro js
    induction js with
    | nil => intro m _; rfl
    | cons j js ih =>
      intro m hjs
      rw [List.foldl_cons, if_neg fun e => hjs j List.mem_cons_self e.1]
      exact ih m fun i hi => hjs i (List.mem_cons_of_mem _ hi)
  unfold State.fillAbsent
  rw [key _ _ fun j hj => h j (List.mem_range.mp hj)]

/-- A slot after a fill that has read every sector (R50, R139). -/
def Slot.filled (t : Slot) (now : Nat) : Slot := { t with state := .resident, dirtySince := if t.dirty = true then some now else none }

/-- A FILL pass that is its drive's only operation ends with every sector read (R50, R86, R98). -/
theorem State.fillEnd_only {s : State} {p : Pass} {k : Nat} {key : Key} {gen : Byte} {ids : List Nat} {size : Fin 4} {verify : Bool}
    {seen : List Nat} {o : Op} (ht : p.target = .track k key gen ids size verify) (hround : p.round = .reading seen)
    (hk : k < s.slots.length) (hst : (s.slot k).state = .filling) (hkey : (s.slot k).key = some key)
    (hgen : (s.slot k).generation = gen) (hsec : ∀ j, j < (s.slot k).sectors.length → ((s.slot k).sector j).state ≠ .absent)
    (hpend : (s.slot k).pendingWrite = none) (hdelay : s.settings.writeBackDelay ≠ 0)
    (hq : s.drives[p.drive].queue = [o]) (ho : o.work.slot? = some k) (hdrain : s.NoDrain p.drive) :
    s.fillEnd p = { s.updSlot k (fun t => t.filled s.now.ms) with
      drives := upd s.drives p.drive (fun v => { v with queue := [], move := .idle, moved := false }), pass := none } := by
  have hdamage : (s.slot k).mapSectors Sector.damage = s.slot k := Slot.mapSectors_id fun j hj => if_neg (hsec j hj)
  have hends : s.updSlot k (fun t => t.fillEnds s.now.ms) = s.updSlot k (fun t => t.filled s.now.ms) := by
    refine State.updSlot_congr ?_
    unfold Slot.fillEnds
    rw [hdamage]
    rfl
  have hslot : (s.updSlot k (fun t => t.filled s.now.ms)).slot k = (s.slot k).filled s.now.ms := State.slot_updSlot_same hk
  unfold State.fillEnd
  rw [ht, hround]
  dsimp only
  rw [if_pos (State.applies_of hk hst hkey hgen), State.fillAbsent_none hsec, hends, Slot.positions_nil hsec]
  dsimp only
  rw [State.endOp_only (s := s.updSlot k (fun t => t.filled s.now.ms)) hq ho]
  refine State.afterFill_quiet (by exact hdrain) ((congrArg Slot.pendingWrite hslot).trans hpend) fun m hm => ?_
  have hm' : (if (s.slot k).dirty = true then some s.now.ms else none) = some m := (congrArg Slot.dirtySince hslot).symm.trans hm
  have hpos : s.settings.writeBackDelay.toNat ≠ 0 := fun e => hdelay (BitVec.eq_of_toNat_eq e)
  split at hm'
  · cases hm'
    show s.now.ms < s.now.ms + s.settings.ageMs
    unfold Settings.ageMs
    omega
  · cases hm'

/-- Settles O48: a field with more to read, and the last one. -/
theorem fillSectorArrives : Obligations.FillSectorArrives := by
  refine ⟨?_, ?_⟩
  · intro f pins p k key gen ids size verify seen q q' s hst hp ht hr ha hround hawait hseen hm hmark hlen hk hfill hkey hgen habs
      hlt hne habs'
    let x : State := s.bumped.sense pins
    let u : State := { x.arrived k q size f with pass := some { p with round := .reading (seen ++ [q]), awaited := none } }
    have hmark' : markSeen seen q = seen ++ [q] := if_neg (by simpa using hseen)
    have hfield : x.fillField f = u := by
      rw [State.fillField_arrives (s := x) hp ht hr ha hround hawait hm hmark hlen hk hfill hkey hgen habs, hmark']
      refine if_pos ?_
      rw [State.slot_arrived (s := x) hk, Slot.holds_iff]
      refine ⟨q', ?_⟩
      split
      · rw [Slot.length_setSector, Slot.sector_setSector, if_neg fun e => hne e.1.symm]
        exact ⟨hlt, habs'⟩
      · exact ⟨hlt, habs'⟩
    have hsched : u.schedule = u := hst.schedule_unchanged rfl rfl rfl
    obtain ⟨heq, hout, hin⟩ := State.finish_arrived (s := s) (u := u) (k := k) (q := q) rfl rfl hlen rfl
    refine ⟨_, ?_, heq, hout, hin⟩
    rw [exec_fillDataFieldRead, State.event_eq]
    exact congrArg (fun t : State => Host.Outcome.next (s.finish t)) ((congrArg State.schedule hfield).trans hsched)
  · intro f pins p k key gen ids size verify seen q s hst hp ht hr ha hround hawait hm hmark hlen hgood hk hfill hkey hgen hlt habs
      hall hpend hdr hdelay honly
    obtain ⟨⟨o, hq, ho, hph⟩, hload, hunload, hpos⟩ := honly
    let x : State := s.bumped.sense pins
    let p1 : Pass := { p with round := .reading (markSeen seen q), awaited := none }
    let y : State := { x.arrived k q size f with pass := some p1 }
    let valid : Slot → Slot := fun t => t.setSector q (fun _ => { state := .valid, report := false })
    have hslots : y.slots = s.slots.modify k valid := if_pos hgood
    have hslot : y.slot k = valid (s.slot k) := (State.slot_arrived (s := x) hk q size f).trans (if_pos hgood)
    have hsec : ∀ j, j < (y.slot k).sectors.length → ((y.slot k).sector j).state ≠ .absent := fun j hj => by
      rw [hslot, Slot.length_setSector] at hj
      rw [hslot, Slot.sector_setSector]
      split
      · exact nofun
      · rename_i hc
        exact hall j hj fun e => hc ⟨e.symm, hj⟩
    let u : State := { y.updSlot k (fun t => t.filled y.now.ms) with
      drives := upd s.drives p.drive (fun v => { v with queue := [], move := .idle, moved := false }), pass := none }
    have hfield : x.fillField f = u := by
      rw [State.fillField_arrives (s := x) hp ht hr ha hround hawait hm hmark hlen hk hfill hkey hgen habs]
      refine (if_neg ?_).trans (State.fillEnd_only (s := y) (p := p1) ht rfl (by rw [hslots, List.length_modify]; exact hk)
        ((congrArg Slot.state hslot).trans hfill) ((congrArg Slot.key hslot).trans hkey) ((congrArg Slot.generation hslot).trans hgen)
        hsec ((congrArg Slot.pendingWrite hslot).trans hpend) hdelay hq ho (hst.2.1 p.drive).2)
      rw [Bool.not_eq_true]
      exact Slot.holds_eq_false_iff.mpr hsec
    have hsched : u.schedule = { u with drives := upd s.drives p.drive (fun v => v.workEnded u.now.ms) } :=
      hst.schedule_workEnded (u := u) rfl rfl hq hph hload hunload hpos rfl (State.noDrain_congr hst fun _ => rfl)
    obtain ⟨heq, hout, hin⟩ := State.finish_arrived (s := s)
      (u := { u with drives := upd s.drives p.drive (fun v => v.workEnded u.now.ms) }) (k := k) (q := q) rfl rfl hlen rfl
    have hdirty : (valid (s.slot k)).dirty = (s.slot k).dirty := by
      rw [Bool.eq_iff_iff]
      refine Slot.holds_iff.trans (Iff.trans ?_ Slot.holds_iff.symm)
      refine exists_congr fun j => and_congr (by rw [Slot.length_setSector]) ?_
      rw [Slot.sector_setSector]
      split
      · rename_i hc
        rw [← hc.1, habs]
        exact ⟨nofun, nofun⟩
      · exact Iff.rfl
    have hfilled : u.slots = s.slots.modify k (fun t =>
        { (t.setSector q (fun _ => { state := .valid, report := false })) with
          state := .resident, dirtySince := if t.dirty = true then some s.now.ms else none }) := by
      show y.slots.modify k (fun t => t.filled s.now.ms) = _
      rw [hslots, List.modify_modify_eq]
      refine modify_congr_getD s.slots k Slot.blank ?_
      show (valid (s.slot k)).filled s.now.ms = _
      unfold Slot.filled
      rw [hdirty]
      rfl
    refine ⟨_, ?_, heq.trans ?_, hout, hin⟩
    · rw [exec_fillDataFieldRead, State.event_eq]
      exact congrArg (fun t : State => Host.Outcome.next (s.finish t)) ((congrArg State.schedule hfield).trans hsched)
    · exact congrArg (fun sl => ({ u with
        drives := upd s.drives p.drive (fun v => v.workEnded u.now.ms), slots := sl, mem := _ } : State)) hfilled

end Sys2Proof.Machine
end

section
/-! SUPPORT. The results of a verify round, and a yield while a third drive holds the channel. -/

namespace Sys2Proof.Machine

theorem Slot.setSector_setSector (t : Slot) (q : Nat) (f g : Sector → Sector) :
    (t.setSector q f).setSector q g = t.setSector q (fun e => g (f e)) :=
  congrArg (fun l => ({ t with sectors := l } : Slot)) (List.modify_modify_eq ..)

/-- A slot of which one sector is changed, and the others hold bytes that are on the diskette or damaged. -/
theorem Slot.setSector_settled {t : Slot} {q : Nat} {f : Sector → Sector} (hq : q < t.sectors.length)
    (hf : (f (t.sector q)).state = .valid) (h : ∀ j, j ≠ q → (t.sector j).state = .valid ∨ (t.sector j).state = .damaged) (j : Nat) :
    ((t.setSector q f).sector j).state = .valid ∨ ((t.setSector q f).sector j).state = .damaged := by
  rw [Slot.sector_setSector]
  by_cases hj : j = q
  · subst hj
    rw [if_pos ⟨rfl, hq⟩]
    exact .inl hf
  · rw [if_neg fun e => hj e.1.symm]
    exact h j hj

/-! ### The verify round -/

/-- The data field of the sector awaited in a verify round is its result (R101). -/
theorem State.verifyField_result {s : State} {f : DataField} {p : Pass} {k : Nat} {key : Key} {gen : Byte} {ids : List Nat} {size : Fin 4}
    {verify : Bool} {todo bad : List Nat} {q : Nat} (hp : s.pass = some p) (ht : p.target = .track k key gen ids size verify)
    (hr : p.recovering = false) (ha : (s.slot k).active = none) (hround : p.round = .verifying todo bad) (hawait : p.awaited = some q)
    (hm : f.mfm = decide (size ≠ 0)) (hmark : f.mark = .data) (hlen : f.bytes.length = sectorSize size) :
    s.verifyField f = s.verifyResult p q (DataField.good f) := by
  unfold State.verifyField
  rw [hp]
  dsimp only
  have hreads : s.reads p f.mfm = true := State.reads_track hp ht hr ha hm
  split
  · rename_i h1 h2 h3
    rw [ht] at h1
    rw [hawait] at h3
    cases h1
    cases h3
    rw [if_neg (by rw [hreads]; simp), if_neg (not_not_intro hmark), if_neg (by rw [isSector_of hmark hlen]; simp)]
  · rename_i h
    exact absurd hawait (h _ _ _ _ _ _ _ _ _ ht hround)

/-- A result for a WRITTEN sector of the slot that the pass works on (R54, R101, R102). -/
theorem State.verifyResult_eq {s : State} {p : Pass} {k : Nat} {key : Key} {gen : Byte} {ids : List Nat} {size : Fin 4} {verify : Bool}
    {todo bad : List Nat} {q : Nat} (ht : p.target = .track k key gen ids size verify) (hround : p.round = .verifying todo bad)
    (hk : k < s.slots.length) (hst : (s.slot k).state = .writing) (hkey : (s.slot k).key = some key)
    (hgen : (s.slot k).generation = gen) (hwr : ((s.slot k).sector q).state = .written) (good : Bool) :
    s.verifyResult p q good =
      let p1 : Pass := { p with round := .verifying (todo.erase q) (if good = true then bad else bad ++ [q]), awaited := none }
      let s1 : State := { s.updSlot k (fun x => x.setSector q (fun e => { e with state := if good = true then .valid else .dirty })) with
        pass := some p1 }
      if todo.erase q = [] then s1.verifyRoundEnd p1 (if good = true then bad else bad ++ [q]) else s1 := by
  have hupd : s.updSlot k (fun x => x.setSector q (fun e => e.verified good)) =
      s.updSlot k (fun x => x.setSector q (fun e => { e with state := if good = true then .valid else .dirty })) :=
    State.updSlot_congr (Slot.setSector_congr (if_pos hwr))
  rw [← hupd]
  unfold State.verifyResult
  split
  · rename_i h1 h2
    rw [ht] at h1
    rw [hround] at h2
    cases h1
    cases h2
    rw [if_pos (State.applies_of hk hst hkey hgen)]
  · rename_i h
    exact absurd hround (h _ _ _ _ _ _ _ _ ht)

theorem State.verifyRoundEnd_good {s : State} {p : Pass} {k : Nat} {key : Key} {gen : Byte} {ids : List Nat} {size : Fin 4}
    {verify : Bool} (ht : p.target = .track k key gen ids size verify) : s.verifyRoundEnd p [] = s.writeEnd p := by
  unfold State.verifyRoundEnd
  rw [ht]
  exact if_pos rfl

/-- The first bad verify round of a pass takes its DIRTY sector into the one rewrite (R54, R102). -/
theorem State.verifyRoundEnd_rewrites {s : State} {p : Pass} {k : Nat} {key : Key} {gen : Byte} {ids : List Nat} {size : Fin 4}
    {verify : Bool} {q : Nat} (ht : p.target = .track k key gen ids size verify) (hrew : p.rewrites = 0)
    (hk : k < s.slots.length) (hst : (s.slot k).state = .writing) (hkey : (s.slot k).key = some key)
    (hgen : (s.slot k).generation = gen) (hq : q < (s.slot k).sectors.length) (hd : ((s.slot k).sector q).state = .dirty)
    (h : ∀ j, j ≠ q → ((s.slot k).sector j).state = .valid ∨ ((s.slot k).sector j).state = .damaged) :
    s.verifyRoundEnd p [q] = { s.updSlot k (fun t => t.setSector q (fun e => { e with state := .outbound })) with
      pass := some { p with round := .writing [q] [], pulses := 0, awaited := none, rewrites := 1 } } := by
  have hupd : s.updSlot k (fun t => t.rewrites [q]) = s.updSlot k (fun t => t.setSector q (fun e => { e with state := .outbound })) :=
    State.updSlot_congr (Slot.setSector_congr (if_pos hd))
  have hpos : ((s.updSlot k (fun t => t.setSector q (fun e => { e with state := .outbound }))).slot k).positions .outbound = [q] := by
    rw [State.slot_updSlot_same hk]
    refine Slot.positions_single (by rw [Slot.length_setSector]; exact hq) fun j hj => ?_
    rw [Slot.length_setSector] at hj
    rw [Slot.sector_setSector]
    by_cases hjq : j = q
    · subst hjq
      rw [if_pos ⟨rfl, hj⟩]
      exact ⟨fun _ => rfl, fun _ => rfl⟩
    · rw [if_neg fun e => hjq e.1.symm]
      refine ⟨fun e => ?_, fun e => absurd e hjq⟩
      rcases h j hjq with e' | e' <;> rw [e'] at e <;> cases e
  unfold State.verifyRoundEnd
  split
  · rename_i h1
    rw [ht] at h1
    cases h1
  · rename_i h1
    rw [ht] at h1
    cases h1
    rw [if_neg nofun, if_pos hrew, if_pos (State.applies_of hk hst hkey hgen), hupd]
    dsimp only
    rw [hpos]
    rfl

/-- Settles O50: a result with more to come, a last good one, and a first bad one. -/
theorem verifyResultApplied : Obligations.VerifyResultApplied := by
  refine ⟨?_, ?_⟩
  · intro f pins p k key gen ids size verify todo bad q s hst hp ht hr ha hround hawait hm hmark hlen htodo hk hwrit hkey hgen hwr hq
    let x : State := s.bumped.sense pins
    have hresult : x.verifyField f = _ := (State.verifyField_result (s := x) hp ht hr ha hround hawait hm hmark hlen).trans
      ((State.verifyResult_eq (s := x) ht hround hk hwrit hkey hgen hwr (DataField.good f)).trans (if_neg htodo))
    obtain ⟨t, hev, hs⟩ := State.event_stores (s := s) (f := fun t => ((t.sense pins).verifyField f).schedule)
      ((congrArg State.schedule hresult).trans (hst.schedule_unchanged rfl rfl rfl)) rfl rfl rfl
    exact ⟨t, congrArg _ hev, hs⟩
  · intro f pins p k key gen ids size verify q s hst hp ht hr ha hround hawait hm hmark hlen hk hwrit hkey hgen hwr hq hall
    let x : State := s.bumped.sense pins
    have hresult : x.verifyField f = _ := (State.verifyField_result (s := x) hp ht hr ha hround hawait hm hmark hlen).trans
      ((State.verifyResult_eq (s := x) ht hround hk hwrit hkey hgen hwr (DataField.good f)).trans (if_pos (List.erase_cons_head ..)))
    refine ⟨fun hgood _ hflush hwait honly => ?_, fun hbad hrew => ?_⟩
    · rw [hgood] at hresult
      let valid : Slot → Slot := fun t => t.setSector q (fun e => { e with state := .valid })
      let p1 : Pass := { p with round := .verifying ([q].erase q) [], awaited := none }
      let y : State := { x.updSlot k valid with pass := some p1 }
      have hslot : y.slot k = valid (s.slot k) := State.slot_updSlot_same (s := s) hk
      have hsched : (x.verifyField f).schedule = _ := (congrArg State.schedule (hresult.trans (State.verifyRoundEnd_good (s := y) (p := p1) ht))).trans
        (State.Steady.write_done (y := y) (p := p1) hst rfl rfl rfl rfl rfl ht (by exact (List.length_modify ..).symm ▸ hk)
          ((congrArg Slot.state hslot).trans hwrit) ((congrArg Slot.key hslot).trans hkey) ((congrArg Slot.generation hslot).trans hgen)
          (fun j => by rw [hslot]; exact Slot.setSector_settled hq rfl hall j) hflush hwait honly)
      rw [show y.updSlot k Slot.written = { x.updSlot k (fun t => (valid t).written) with pass := some p1 } from
        State.updSlot_updSlot { x with pass := some p1 } k valid Slot.written] at hsched
      obtain ⟨t, hev, hs⟩ := State.event_stores (s := s) (f := fun t => ((t.sense pins).verifyField f).schedule) hsched rfl rfl rfl
      exact ⟨t, congrArg _ hev, hs⟩
    · rw [hbad] at hresult
      let redirty : Slot → Slot := fun t => t.setSector q (fun e => { e with state := .dirty })
      let p1 : Pass := { p with round := .verifying ([q].erase q) [q], awaited := none }
      let y : State := { x.updSlot k redirty with pass := some p1 }
      have hslot : y.slot k = redirty (s.slot k) := State.slot_updSlot_same (s := s) hk
      have hround2 : y.verifyRoundEnd p1 [q] = _ := State.verifyRoundEnd_rewrites (s := y) (p := p1) ht hrew
        (by exact (List.length_modify ..).symm ▸ hk)
        ((congrArg Slot.state hslot).trans hwrit) ((congrArg Slot.key hslot).trans hkey) ((congrArg Slot.generation hslot).trans hgen)
        (by rw [hslot, Slot.length_setSector]; exact hq) (by rw [hslot, Slot.sector_setSector, if_pos ⟨rfl, hq⟩])
        (fun j hj => by rw [hslot, Slot.sector_setSector, if_neg fun e => hj e.1.symm]; exact hall j hj)
      have hboth : y.updSlot k (fun t => t.setSector q (fun e => { e with state := .outbound })) =
          { x.updSlot k (fun t => t.setSector q (fun e => { e with state := .outbound })) with pass := some p1 } :=
        (State.updSlot_updSlot { x with pass := some p1 } k redirty _).trans (State.updSlot_congr (Slot.setSector_setSector ..))
      rw [hboth] at hround2
      obtain ⟨t, hev, hs⟩ := State.event_stores (s := s) (f := fun t => ((t.sense pins).verifyField f).schedule)
        ((congrArg State.schedule (hresult.trans hround2)).trans (hst.schedule_unchanged rfl rfl rfl)) rfl rfl rfl
      exact ⟨t, congrArg _ hev, hs⟩

/-! ### A yield while a third drive holds the channel -/

/-- An operation on cylinder 3, head 1. -/
def crowdedOp (w : Work) (c : OpClass) (ph : OpPhase) : Op :=
  { work := w, reason := none, cylinder := 3, head := 1, cls := c, enqueued := { ms := 0, seq := 0 }, promoted := { ms := 0, seq := 0 },
    phase := ph }

/-- A loaded drive with one operation, which is current. -/
def crowdedDrive (v : Drive) (o : Op) : Drive :=
  { v with queue := [o], current := true, media := .loaded, head := some 3, watch := some 0 }

/-- The WRITE pass of slot 0, its first sector active and its second still to be written. -/
def crowdedPass : Pass :=
  { drive := 0, cylinder := 3, head := 1, target := .track 0 { drive := 0, cylinder := 3, head := 1 } 0 [1, 2] 2 true, retry := 3,
    round := .writing [0, 1] [], pulses := 0, recals := 0, rewrites := 0, recovering := false, awaited := none }

/-- The URGENT FILL of drive 1 that waits for the channel. -/
def crowdedFill : Op := crowdedOp (.fill 1 0) .urgent (.positioned { ms := 0, seq := 0 })

/-- Drive 0 writes slot 0 and drive 1 waits for the channel with an URGENT FILL of slot 1, while drive 2 has a TRANSFERRING
operation as well: no step leads here (R84), but nothing that O49 supposes excludes it. -/
def crowded : State :=
  { State.reset with
    phase := .running
    slots := [
      { Slot.blank with
        state := .writing, key := some { drive := 0, cylinder := 3, head := 1 },
        sectors := [{ state := .outbound, report := false }, { state := .outbound, report := false }], active := some 0 },
      { Slot.blank with
        state := .filling, key := some { drive := 1, cylinder := 3, head := 1 }, sectors := [{ state := .absent, report := false }] }]
    drives := upd (upd (upd State.reset.drives
      0 (fun v => crowdedDrive v (crowdedOp (.write 0 0 false) .normal .transferring)))
      1 (fun v => crowdedDrive v crowdedFill))
      2 (fun v => crowdedDrive v (crowdedOp .probe .normal .transferring))
    pass := some crowdedPass }

/-- Every drive READY. -/
def crowdedPins : Pins := { ready := 0xF, track0 := 0, wprot := 0 }

/-- Drive 0 yields, and the channel stays held: the FILL of drive 1 goes on waiting (R84, R88). -/
theorem crowded_yield_keeps_waiting :
    (match exec (.writeFieldEnd crowdedPins) crowded with
      | .next t => decide (t.drives[(1 : DriveNo)].queue = [crowdedFill])
      | _ => false) = true := by
  decide +kernel

/-- Refutes O49, by its third part: nothing there says that the yielding WRITE alone holds the channel. Where a third drive has a
TRANSFERRING operation too, the channel is held after the yield, and the URGENT FILL is not granted it. -/
theorem not_writtenFieldEnds : ¬ Obligations.WrittenFieldEnds := by
  rintro ⟨-, -, hyield⟩
  obtain ⟨t, hexec, -, -, -, -, -, -, -, -, -, -, -, -, -, hgranted, -⟩ :=
    hyield crowdedPins crowdedPass 0 1 { drive := 0, cylinder := 3, head := 1 } 0 0 [1, 2] 2 true false [0, 1] [] 0 1
      (crowdedOp (.write 0 0 false) .normal .transferring) crowdedFill { ms := 0, seq := 0 } 1 crowded (by decide +kernel) rfl rfl rfl rfl
      (by decide) (by decide) rfl (by decide) (by decide) rfl rfl rfl (by decide) rfl rfl rfl (by decide) rfl rfl rfl (by decide) rfl rfl
      rfl rfl (by decide) rfl rfl (by decide +kernel)
  have hwaits := crowded_yield_keeps_waiting
  rw [hexec] at hwaits
  have hphase := List.singleton_inj.mp (hgranted.symm.trans (of_decide_eq_true hwaits))
  exact absurd (congrArg Op.phase hphase) nofun

end Sys2Proof.Machine
end

section
/-! SUPPORT. The two sums of a label's stamp. -/

namespace Sys2Proof.Machine

/-- One byte taken into the two sums (R105). -/
def stampStep (s : Nat × Nat) (b : Byte) : Nat × Nat := ((s.1 + b.toNat) % 255, (s.2 + (s.1 + b.toNat) % 255) % 255)

theorem stampSums_eq (bs : List Byte) : stampSums bs = bs.foldl stampStep (0, 0) := rfl

theorem stampSums_append_one (bs : List Byte) (b : Byte) : stampSums (bs ++ [b]) = stampStep (stampSums bs) b := by
  simp only [stampSums_eq, List.foldl_append, List.foldl_cons, List.foldl_nil]

theorem stampStep_lt (s : Nat × Nat) (b : Byte) : (stampStep s b).1 < 255 ∧ (stampStep s b).2 < 255 :=
  ⟨Nat.mod_lt _ (by omega), Nat.mod_lt _ (by omega)⟩

theorem stampSums_lt (bs : List Byte) : (stampSums bs).1 < 255 ∧ (stampSums bs).2 < 255 := by
  induction bs using List.reverseRecOn with
  | nil => exact ⟨by decide, by decide⟩
  | append_singleton bs b => rw [stampSums_append_one]; exact stampStep_lt _ _

theorem stampOf_toNat (bs : List Byte) : (stampOf bs).toNat = (stampSums bs).2 * 256 + (stampSums bs).1 := by
  have := stampSums_lt bs
  unfold stampOf
  rw [BitVec.toNat_ofNat]
  omega

/-- FFh counts as 00h does, for the sums are taken modulo 255 (R105). -/
theorem stampSums_map_zero (bs : List Byte) : stampSums (bs.map (fun b => if b = 0xFF then 0 else b)) = stampSums bs := by
  induction bs using List.reverseRecOn with
  | nil => rfl
  | append_singleton bs b ih =>
    rw [List.map_append, List.map_singleton, stampSums_append_one, stampSums_append_one, ih]
    split
    · rename_i h
      have : (stampSums bs).1 + (0 : Byte).toNat ≡ (stampSums bs).1 + b.toNat [MOD 255] := by
        rw [h]
        exact (Nat.ModEq.refl _).add (by decide)
      unfold stampStep
      rw [this]
    · rfl

theorem stampSums_blank {bs : List Byte} (h : ∀ b ∈ bs, b = 0x00 ∨ b = 0xFF) : stampSums bs = (0, 0) := by
  induction bs using List.reverseRecOn with
  | nil => rfl
  | append_singleton bs b ih =>
    rw [stampSums_append_one, ih fun c hc => h c (List.mem_append_left _ hc)]
    rcases h b (by simp) with e | e <;> rw [e] <;> rfl

/-- First sums that differ modulo 255 go on differing, whatever bytes follow. -/
theorem stampStep_foldl_ne {p q : Nat × Nat} (h : p.1 % 255 ≠ q.1 % 255) (cs : List Byte) :
    (cs.foldl stampStep p).1 % 255 ≠ (cs.foldl stampStep q).1 % 255 := by
  induction cs generalizing p q with
  | nil => exact h
  | cons c cs ih =>
    refine ih ?_
    show (p.1 + c.toNat) % 255 % 255 ≠ (q.1 + c.toNat) % 255 % 255
    omega

/-- Labels that differ in one byte, other than by 00h against FFh, differ in their first sum. -/
theorem stampSums_ne (bs cs : List Byte) {a b : Byte} (hab : a ≠ b) (h1 : ¬ (a = 0x00 ∧ b = 0xFF)) (h2 : ¬ (a = 0xFF ∧ b = 0x00)) :
    (stampSums (bs ++ a :: cs)).1 ≠ (stampSums (bs ++ b :: cs)).1 := by
  have hmod : a.toNat % 255 ≠ b.toNat % 255 := by
    intro e
    have ha := a.isLt
    have hb := b.isLt
    have hne : a.toNat ≠ b.toNat := fun e => hab (BitVec.eq_of_toNat_eq e)
    rcases show (a.toNat = 0 ∧ b.toNat = 255) ∨ (a.toNat = 255 ∧ b.toNat = 0) by omega with ⟨ea, eb⟩ | ⟨ea, eb⟩
    · exact h1 ⟨BitVec.eq_of_toNat_eq ea, BitVec.eq_of_toNat_eq eb⟩
    · exact h2 ⟨BitVec.eq_of_toNat_eq ea, BitVec.eq_of_toNat_eq eb⟩
  have hstep : (stampStep (stampSums bs) a).1 % 255 ≠ (stampStep (stampSums bs) b).1 % 255 := by
    show ((stampSums bs).1 + a.toNat) % 255 % 255 ≠ ((stampSums bs).1 + b.toNat) % 255 % 255
    omega
  intro e
  refine stampStep_foldl_ne hstep cs ?_
  rw [stampSums_eq, stampSums_eq, List.foldl_append, List.foldl_append, List.foldl_cons, List.foldl_cons] at e
  exact congrArg (· % 255) e

/-- Settles O55: the sums are remainders, and the stamp is a pair of them. -/
theorem Label.stampSums : Obligations.StampSums := by
  refine ⟨rfl, fun bs b => by rw [stampSums_append_one]; exact ⟨rfl, rfl⟩, fun bs => ?_⟩
  obtain ⟨h1, h2⟩ := stampSums_lt bs
  have hst := stampOf_toNat bs
  refine ⟨by omega, by omega, hst, fun e => ?_, fun e => ?_, ?_, fun h => ?_, fun cs a b hab hz hf e => ?_⟩
  · have := congrArg BitVec.toNat e
    unfold loByte at this
    simp at this
    omega
  · have := congrArg BitVec.toNat e
    unfold hiByte at this
    simp at this
    omega
  · unfold stampOf
    rw [stampSums_map_zero]
  · unfold stampOf
    rw [stampSums_blank h]
    rfl
  · have hn := congrArg BitVec.toNat e
    rw [stampOf_toNat, stampOf_toNat] at hn
    have ha := stampSums_lt (bs ++ a :: cs)
    have hb := stampSums_lt (bs ++ b :: cs)
    exact stampSums_ne bs cs hab hz hf (by omega)

end Sys2Proof.Machine
end

section
/-! SUPPORT. Reset-flush while it drains: every queued operation is a WRITE, and nobody waits. -/

namespace Sys2Proof.Machine

/-- The queues hold WRITEs alone and the Waiter Table is empty, as steps 1 and 3 of a bus reset leave them (R156). -/
structure State.WritesOnly (s : State) : Prop where
  waiters : ∀ r : Requester, s.waiters[r] = .empty
  writes : ∀ (d : DriveNo) (o : Op), o ∈ s.drives[d].queue → o.work.isWrite = true

namespace State.WritesOnly

variable {s t : State}

theorem same (h : s.WritesOnly) (hd : t.drives = s.drives) (hw : t.waiters = s.waiters) : t.WritesOnly :=
  ⟨by rw [hw]; exact h.waiters, by rw [hd]; exact h.writes⟩

theorem ite {c : Prop} [Decidable c] (h : s.WritesOnly) (g : t.WritesOnly) : (if c then s else t).WritesOnly := by
  split
  · exact h
  · exact g

theorem foldl {α : Type} {f : State → α → State} (hf : ∀ t x, State.WritesOnly t → (f t x).WritesOnly) (xs : List α)
    (h : s.WritesOnly) : (xs.foldl f s).WritesOnly := by
  induction xs generalizing s with
  | nil => exact h
  | cons x xs ih => exact ih (hf s x h)

/-- Nobody waits for a slot. -/
theorem noSlotWaits (h : s.WritesOnly) : s.NoSlotWaits := fun r => by
  unfold State.slotWait
  rw [h.waiters r]
  rfl

/-! ### Updates of one table -/

/-- A drive whose queue keeps to WRITEs. -/
theorem updDrive (h : s.WritesOnly) (d : DriveNo) {f : Drive → Drive}
    (hf : ∀ v : Drive, (∀ o ∈ v.queue, o.work.isWrite = true) → ∀ o ∈ (f v).queue, o.work.isWrite = true) : (s.updDrive d f).WritesOnly := by
  refine ⟨h.waiters, fun e => ?_⟩
  show ∀ o ∈ (upd s.drives d f)[e].queue, _
  rw [upd_get]
  split
  · rename_i hd; subst hd; exact hf _ (h.writes d)
  · exact h.writes e

/-- A drive that keeps its queue. -/
theorem updDrive_queue (h : s.WritesOnly) (d : DriveNo) {f : Drive → Drive} (hf : ∀ v : Drive, (f v).queue = v.queue) :
    (s.updDrive d f).WritesOnly := h.updDrive d fun v hv => by rw [hf]; exact hv

theorem updSlot (h : s.WritesOnly) (k : Nat) (f : Slot → Slot) : (s.updSlot k f).WritesOnly := ⟨h.waiters, h.writes⟩

theorem updRecord (h : s.WritesOnly) (d : DriveNo) (f : MountRecord → MountRecord) : (s.updRecord d f).WritesOnly :=
  ⟨h.waiters, h.writes⟩

theorem unmount (h : s.WritesOnly) (d : DriveNo) : (s.unmount d).WritesOnly := ⟨h.waiters, h.writes⟩

theorem setOutcome (h : s.WritesOnly) (d : DriveNo) (o : ReqOutcome) : (s.setOutcome d o).WritesOnly := ⟨h.waiters, h.writes⟩

theorem freeSlot (h : s.WritesOnly) (k : Nat) : (s.freeSlot k).WritesOnly := ⟨h.waiters, h.writes⟩

theorem strandSlot (h : s.WritesOnly) (k : Nat) : (s.strandSlot k).WritesOnly := ⟨h.waiters, h.writes⟩

theorem driveFault (h : s.WritesOnly) (d : DriveNo) (c : FaultCode) (cyl head : Nat) (id : Option Nat) :
    (s.driveFault d c cyl head id).WritesOnly := ⟨h.waiters, h.writes⟩

theorem updOp (h : s.WritesOnly) (d : DriveNo) (k : Option Nat) {f : Op → Op} (hf : ∀ o : Op, (f o).work.isWrite = o.work.isWrite) :
    (s.updOp d k f).WritesOnly := by
  refine h.updDrive d fun v hv o ho => ?_
  obtain ⟨x, hx, rfl⟩ := List.mem_map.mp ho
  split
  · rw [hf]; exact hv x hx
  · exact hv x hx

theorem removeOp (h : s.WritesOnly) (d : DriveNo) (k : Option Nat) : (s.removeOp d k).WritesOnly :=
  h.updDrive d fun _ hv o ho => hv o (List.mem_filter.mp ho).1

theorem dropOps (h : s.WritesOnly) (d : DriveNo) (q : Op → Bool) : (s.dropOps d q).WritesOnly := by
  refine ⟨?_, fun e o ho => ?_⟩
  · unfold State.dropOps
    dsimp only
    split <;> exact h.waiters
  · rw [State.dropOps_queue] at ho
    split at ho
    · exact h.writes d o (List.mem_filter.mp ho).1
    · exact h.writes e o ho

theorem endOp (h : s.WritesOnly) (d : DriveNo) (k : Option Nat) : (s.endOp d k).WritesOnly :=
  have g : ((s.removeOp d k).updDrive d (fun v => { v with move := .idle, moved := false })).WritesOnly :=
    (h.removeOp d k).updDrive_queue d fun _ => rfl
  ⟨g.waiters, g.writes⟩

/-! ### WRITEs asked for -/

/-- A WRITE asked for joins or becomes a WRITE, where nothing else is queued (R76, R77). -/
theorem requestWrite (h : s.WritesOnly) (k : Nat) (r : Reason) (c : OpClass) : (s.requestWrite k r c).WritesOnly := by
  unfold State.requestWrite
  split
  · split
    · refine h.updOp _ _ fun o => ?_
      unfold Op.merge Work.mark
      split <;> rename_i hw <;> simp only [hw, Work.isWrite]
    · refine h.updDrive _ fun v hv o ho => ?_
      rcases List.mem_append.mp ho with ho | ho
      · exact hv o ho
      · rw [List.mem_singleton.mp ho]; rfl
  · exact h

theorem requestWriteFor (h : s.WritesOnly) (k : Nat) (r : Reason) (c : OpClass) : (s.requestWriteFor k r c).WritesOnly := by
  have g : ((s.updSlot k (fun t => { t with writeFailed := false })).requestWrite k r c).WritesOnly :=
    (h.updSlot k _).requestWrite k r c
  unfold State.requestWriteFor
  exact ite (g.same rfl rfl) g

theorem ageCheck (h : s.WritesOnly) (k : Nat) : (s.ageCheck k).WritesOnly := by
  unfold State.ageCheck
  split
  · exact ite (h.requestWrite _ _ _) h
  · exact h

/-- No slot-waiter, no grant. -/
theorem releaseEvent (h : s.WritesOnly) (skip : Option DriveNo) : (s.releaseEvent skip).WritesOnly := by
  rw [State.releaseEvent_quiet h.noSlotWaits]
  exact h

theorem released (h : s.WritesOnly) (ks : List Nat) (skip : Option DriveNo) : (s.released ks skip).WritesOnly := by
  rw [State.released_quiet (.inl h.noSlotWaits)]
  exact h

theorem evictionRepeat (h : s.WritesOnly) : s.evictionRepeat.WritesOnly := by
  unfold State.evictionRepeat
  rw [State.slotWaiters_nil h.noSlotWaits]
  exact h

/-! ### The end of a WRITE -/

theorem flushComplete (h : s.WritesOnly) (d : DriveNo) : (s.flushComplete d).WritesOnly := by
  unfold State.flushComplete
  exact ite (h.same rfl rfl) h

theorem flushEnd (h : s.WritesOnly) (d : DriveNo) (k : Nat) (e : WriteEnd) : (s.flushEnd d k e).WritesOnly := by
  have g : ∀ f : MountRecord → MountRecord, (s.updRecord d f).WritesOnly := fun f => h.updRecord d f
  unfold State.flushEnd
  split
  · exact h
  · split
    · exact (g _).flushComplete d
    · exact (g _).flushComplete d
    · exact (g _).flushComplete d
    · exact ite ((g _).requestWriteFor _ _ _) ((g _).flushComplete d)

theorem freezeEnd (h : s.WritesOnly) (d : DriveNo) (k : Nat) (e : WriteEnd) : (s.freezeEnd d k e).WritesOnly := by
  unfold State.freezeEnd
  exact ite (h.same rfl rfl) h

theorem askAgain (h : s.WritesOnly) (d : DriveNo) (k : Nat) : (s.askAgain d k).WritesOnly := by
  unfold State.askAgain
  exact ite (h.requestWriteFor _ _ _) h

theorem afterWrite (h : s.WritesOnly) (d : DriveNo) (k : Nat) (evict : Bool) (e : WriteEnd) :
    (s.afterWrite d k evict e).WritesOnly := by
  have g : ((((s.flushEnd d k e).freezeEnd d k e).askAgain d k).ageCheck k).WritesOnly :=
    (((h.flushEnd d k e).freezeEnd d k e).askAgain d k).ageCheck k
  unfold State.afterWrite
  exact ite (ite g (g.releaseEvent none)) (ite g.evictionRepeat g)

/-! ### Slots and volumes -/

theorem freeSlots (h : s.WritesOnly) (ks : List Nat) : (s.freeSlots ks).WritesOnly :=
  foldl (fun _ k g => g.freeSlot k) ks h

theorem fillStopped (h : s.WritesOnly) (k : Nat) : (s.fillStopped k).WritesOnly := by
  unfold State.fillStopped
  exact ite h (ite (h.same rfl rfl) (h.same rfl rfl))

/-- Waits of a drive that fail, where there are none. -/
theorem failDriveWaiters (h : s.WritesOnly) (d : DriveNo) (c : WaitFailure) : (s.failDriveWaiters d c).WritesOnly := by
  refine ⟨fun r => ?_, h.writes⟩
  show (updAll s.waiters (fun e => e.failDrive d c))[r] = .empty
  rw [updAll_get, h.waiters r]
  rfl

theorem discardNow (h : s.WritesOnly) (d : DriveNo) : (s.discardNow d).WritesOnly := by
  have g : (((s.dropOps d (fun _ => true)).freeSlots (s.slotsOf d)).failDriveWaiters d .noVolume).WritesOnly :=
    ((h.dropOps d _).freeSlots _).failDriveWaiters d _
  exact ((g.unmount d).setOutcome d _).released _ _

theorem discardIfPending (h : s.WritesOnly) (d : DriveNo) : (s.discardIfPending d).WritesOnly := by
  unfold State.discardIfPending
  exact ite (h.discardNow d) h

theorem releaseDone (h : s.WritesOnly) (d : DriveNo) : (s.releaseDone d).WritesOnly :=
  (((h.freeSlots (s.slotsOf d)).unmount d).setOutcome d _).released _ _

theorem releasePhase2 (h : s.WritesOnly) (d : DriveNo) : (s.releasePhase2 d).WritesOnly := by
  have g : ((s.updRecord d (fun m => { m with progress := m.progress.map (fun p => { p with phase2 := true }) })).dropOps d
      Op.droppedByRelease).WritesOnly := (h.updRecord d _).dropOps d _
  unfold State.releasePhase2
  exact ite (g.releaseDone d) ((foldl (fun _ k g => g.fillStopped k) _ g).released _ _)

theorem drainVolume (h : s.WritesOnly) (d : DriveNo) : (s.drainVolume d).WritesOnly := by
  unfold State.drainVolume
  exact ite (h.same rfl rfl) (h.same rfl rfl)

theorem drainEnd (h : s.WritesOnly) : s.drainEnd.WritesOnly := by
  have g1 : (s.leftDirty.foldl State.strandSlot s).WritesOnly := foldl (fun _ k g => g.strandSlot k) _ h
  unfold State.drainEnd
  exact State.WritesOnly.same ((foldl (fun _ d g => g.drainVolume d) driveNos (g1.freeSlots _)).released _ none) rfl rfl

/-! ### Seeks -/

theorem giveStep (h : s.WritesOnly) (d : DriveNo) (inward : Bool) (m : Move) : (s.giveStep d inward m).WritesOnly :=
  h.updDrive_queue d fun _ => rfl

theorem position (h : s.WritesOnly) (d : DriveNo) : (s.position d).WritesOnly := by
  refine h.updDrive d fun v hv o ho => ?_
  obtain ⟨x, hx, rfl⟩ := List.mem_map.mp ho
  unfold Op.atTarget
  split <;> exact hv x hx

theorem settleStage (h : s.WritesOnly) (d : DriveNo) : (s.settleStage d).WritesOnly := by
  unfold State.settleStage
  exact ite (h.updDrive_queue d fun _ => rfl) (h.position d)

theorem loadStage (h : s.WritesOnly) (d : DriveNo) : (s.loadStage d).WritesOnly :=
  (h.updDrive_queue d fun v => by split <;> rfl).settleStage d

theorem stepStage (h : s.WritesOnly) (d : DriveNo) : (s.stepStage d).WritesOnly := by
  unfold State.stepStage
  split
  · exact h
  · exact ite (h.loadStage d) (h.giveStep _ _ _)

theorem beginRecal (h : s.WritesOnly) (d : DriveNo) : (s.beginRecal d).WritesOnly := by
  have g : (s.updDrive d (fun v => { v with head := some 0 })).WritesOnly := h.updDrive_queue d fun _ => rfl
  unfold State.beginRecal
  exact ite (g.stepStage d) (h.giveStep _ _ _)

theorem recalStage (h : s.WritesOnly) (d : DriveNo) : (s.recalStage d).WritesOnly := by
  unfold State.recalStage
  exact ite (h.beginRecal d) (h.stepStage d)

theorem motorStage (h : s.WritesOnly) (d : DriveNo) : (s.motorStage d).WritesOnly := by
  have g : ∀ f : Drive → Drive, (∀ v, (f v).queue = v.queue) → (s.updDrive d f).WritesOnly := fun _ hf => h.updDrive_queue d hf
  unfold State.motorStage
  dsimp only
  split
  · exact h
  · exact g _ fun _ => rfl
  · exact ite (g _ fun _ => rfl) (g _ fun _ => rfl)
  · exact ite (g _ fun _ => rfl) (h.recalStage d)
  · exact ite (g _ fun _ => rfl) (h.recalStage d)

theorem choose (h : s.WritesOnly) (d : DriveNo) (o : Op) (inward : Bool) : (s.choose d o inward).WritesOnly := by
  refine h.updDrive d fun v hv x hx => ?_
  obtain ⟨y, hy, rfl⟩ := List.mem_map.mp hx
  split <;> exact hv y hy

/-! ### Passes -/

/-- The operation that fails is a WRITE. -/
theorem opFailed (h : s.WritesOnly) (d : DriveNo) (f : DriveFailure) : (s.opFailed d f).WritesOnly := by
  unfold State.opFailed
  split
  · exact h
  · rename_i o ho
    extract_lets s0 s1 s2
    have hw := h.writes d o (Drive.currentOp_mem ho).1
    have g0 : s0.WritesOnly := h.updDrive_queue d fun _ => rfl
    have g1 : s1.WritesOnly := ite (g0.endOp _ _) (g0.removeOp _ _)
    have g2 : s2.WritesOnly := g1.same rfl rfl
    clear_value s2 s1 s0
    split
    · rename_i e; rw [e] at hw; cases hw
    · have gf : ∀ k, (s2.failWrite k).WritesOnly := fun k => by
        unfold State.failWrite
        exact ite (g2.updSlot k _) g2
      exact ((gf _).afterWrite _ _ _ _).discardIfPending _
    · rename_i e; rw [e] at hw; cases hw

theorem beginWrite (h : s.WritesOnly) (d : DriveNo) (o : Op) (k : Nat) (gen : Byte) (evict : Bool) :
    (s.beginWrite d o k gen evict).WritesOnly := by
  have g : ∀ f : Slot → Slot, ((s.updSlot k f).endOp d (some k)).WritesOnly := fun f =>
    (h.updSlot k f).endOp _ _
  unfold State.beginWrite
  refine ite ?_ (ite (h.same rfl rfl) ((g _).afterWrite _ _ _ _))
  unfold State.writeRefused
  exact ((g _).driveFault _ _ _ _ _).afterWrite _ _ _ _

/-- The operation that is given the channel is a WRITE. -/
theorem grantChannel (h : s.WritesOnly) (d : DriveNo) {o : Op} (ho : o.work.isWrite = true) : (s.grantChannel d o).WritesOnly := by
  have g : (s.giveChannel d o).WritesOnly := h.updOp _ _ fun _ => rfl
  refine ite ?_ (g.opFailed d .notReady)
  unfold State.beginPass
  split
  · rename_i e; rw [e] at ho; cases ho
  · exact g.beginWrite _ _ _ _ _
  · rename_i e; rw [e] at ho; cases ho

/-! ### The schedule -/

theorem volumeStep (h : s.WritesOnly) {d : DriveNo} (hu : s.volumeStep d = some t) : t.WritesOnly := by
  unfold State.volumeStep at hu
  split at hu
  · split at hu
    · cases hu; exact h.same rfl rfl
    · cases hu
  · repeat' split at hu
    all_goals cases hu
    · exact h.releasePhase2 _
    · exact h.releaseDone _
  · cases hu

theorem drainStep (h : s.WritesOnly) (hu : s.drainStep = some t) : t.WritesOnly := by
  unfold State.drainStep at hu
  split at hu
  · rw [← Option.some.inj hu]; exact h.drainEnd
  · cases hu

theorem selectStep (h : s.WritesOnly) {d : DriveNo} (hu : s.selectStep d = some t) : t.WritesOnly := by
  unfold State.selectStep at hu
  dsimp only at hu
  split at hu
  · cases hu
  · split at hu
    · cases hu
    · split at hu
      · cases hu; exact (h.choose _ _ _).opFailed _ _
      · cases hu; exact (h.choose _ _ _).motorStage _

theorem arbiterStep (h : s.WritesOnly) (hu : s.arbiterStep = some t) : t.WritesOnly := by
  unfold State.arbiterStep at hu
  split at hu
  · cases hu
  · obtain ⟨x, hx, rfl⟩ := Option.map_eq_some_iff.mp hu
    exact h.grantChannel _ (h.writes _ _ (Drive.currentOp_mem (State.arbiterChoice_current hx)).1)

theorem nextStep (h : s.WritesOnly) (hu : s.nextStep = some t) : t.WritesOnly := by
  unfold State.nextStep at hu
  simp only [Option.orElse_eq_orElse, Option.orElse_eq_or, Option.or_eq_some_iff, List.findSome?_eq_some_iff] at hu
  rcases hu with ⟨_, d, _, _, hd, _⟩ | ⟨_, hu | ⟨_, ⟨_, d, _, _, hd, _⟩ | ⟨_, hu⟩⟩⟩
  · exact h.volumeStep hd
  · exact h.drainStep hu
  · exact h.selectStep hd
  · exact h.arbiterStep hu

theorem settleLoop (n : Nat) (h : s.WritesOnly) : (State.settleLoop n s).WritesOnly := by
  induction n generalizing s with
  | zero => exact h
  | succ n ih =>
    unfold State.settleLoop
    split
    · rename_i u hu; exact ih (h.nextStep hu)
    · exact h

theorem notices (h : s.WritesOnly) : s.notices.WritesOnly := by
  refine ⟨h.waiters, fun d => ?_⟩
  show ∀ o ∈ (updAll s.drives _)[d].queue, _
  rw [updAll_get, Drive.watchAt_queue]
  split
  · rw [Drive.lose_queue]; exact h.writes d
  · exact h.writes d

theorem schedule (h : s.WritesOnly) : s.schedule.WritesOnly := (h.settleLoop _).notices

theorem resetWrites (h : s.WritesOnly) : s.resetWrites.WritesOnly := foldl (fun _ k g => g.requestWriteFor k _ _) _ h

end State.WritesOnly

/-- Step 3 of a bus reset drops every operation but the WRITEs (R156). -/
theorem State.resetDrops_writesOnly {s : State} (hw : ∀ r : Requester, s.waiters[r] = .empty) : s.resetDrops.WritesOnly := by
  have hwait : ∀ (ds : List DriveNo) (u : State), (ds.foldl (fun t d => t.dropOps d (fun o => !o.work.isWrite)) u).waiters = u.waiters := by
    intro ds
    induction ds with
    | nil => intro u; rfl
    | cons d ds ih =>
      intro u
      rw [List.foldl_cons, ih]
      unfold State.dropOps
      dsimp only
      split <;> rfl
  have g : (driveNos.foldl (fun t d => t.dropOps d (fun o => !o.work.isWrite)) s).WritesOnly := by
    refine ⟨by rw [hwait]; exact hw, fun e o ho => ?_⟩
    simp only [driveNos, List.foldl_cons, List.foldl_nil, State.dropOps_queue] at ho
    fin_cases e <;> simp_all
  unfold State.resetDrops
  exact State.WritesOnly.foldl (fun _ k g => g.fillStopped k) _ (State.WritesOnly.same g rfl rfl)

end Sys2Proof.Machine
end

section
/-! SUPPORT. A bus reset: its steps in a part at rest, the drain's first WRITE, and what every bus reset leaves. -/

namespace Sys2Proof.Machine

/-! ### The event of a bus reset -/

/-- The effects of a bus reset, before the part's stores. -/
def State.resetEffects (s : State) : State :=
  ((driveNos.foldl State.resetVolume s.bumped.resetFront).resetDrops.resetWrites).schedule

theorem exec_busReset_running {s : State} (h : s.phase = .running) : exec .busReset s = .next (s.finish s.resetEffects) := by
  rw [exec_busReset]
  unfold State.busReset
  rw [if_pos (by unfold State.watching; simpa using h), State.event_eq]
  rfl

theorem State.keeps_resetEffects (s : State) : Keeps s.bumped.resetFront s.resetEffects :=
  (Keeps.foldl (f := State.resetVolume) (fun u d => (Keeps.refl u).resetVolume d) driveNos
    (Keeps.refl _)).resetDrops.resetWrites.schedule

theorem State.resetVolume_waiters (s : State) (d : DriveNo) : (s.resetVolume d).waiters = s.waiters := by
  unfold State.resetVolume
  split <;> rfl

theorem State.resetEffects_writesOnly (s : State) : s.resetEffects.WritesOnly := by
  refine (State.resetDrops_writesOnly fun r => ?_).resetWrites.schedule
  simp only [driveNos, List.foldl_cons, List.foldl_nil, State.resetVolume_waiters]
  exact Vector.getElem_replicate ..

/-- What the end of an event leaves as its effects have it. -/
theorem State.finish_keeps (s u : State) : (s.finish u).pending = u.pending ∧ (s.finish u).waiters = u.waiters ∧
    (s.finish u).drives = u.drives ∧ (s.finish u).layoutVersion = u.layoutVersion := by
  rcases State.finish_cases s u with ⟨-, h⟩ | ⟨-, h⟩ <;> rw [h] <;> exact ⟨rfl, rfl, rfl, rfl⟩

/-- Copies with the rewrite's values show no outcome and no fault (R14, R158). -/
theorem State.attention_rewriteCopies (s : State) : s.rewriteCopies.attention = false := by
  rw [← Bool.not_eq_true, attentionFollowsOutcomesAndFaults]
  rintro (⟨d, h⟩ | ⟨i, h⟩)
  · refine h ?_
    show ((updAll s.records _)[d] : MountRecord).outcome = .none
    rw [updAll_get]
    split <;> rfl
  · refine h ?_
    show (Vector.replicate 5 FaultRecord.empty)[i].code = .none
    rw [Fin.getElem_fin, Vector.getElem_replicate]
    rfl

/-- An event that does not end the drain, and keeps the straps and DRAM. -/
theorem State.finish_stores_of {s u : State} (hd : drainEnded s u = false) (hs : u.straps = s.straps) (hm : u.mem = s.mem) :
    s.finish u = { u with mem := (s.finish u).mem } ∧ s.Stores (s.finish u) := by
  refine ⟨State.eq_withMem (State.finish_withMem hd), fun a ha => ?_, State.shown_finish hd fun o _ => ?_⟩
  · rw [State.read_finish_outside hs ha, hm]
  · unfold State.shown
    rw [hm, hs]

/-! ### The steps of a bus reset in a part at rest -/

/-- A volume that a bus reset leaves in its state (R156 step 2). -/
abbrev State.ResetKeeps (s : State) (d : DriveNo) : Prop :=
  s.volume d = .unmounted ∨ s.volume d = .mounted ∨ s.volume d = .frozen ∨ s.volume d = .lost

/-- A record whose pending discard is cancelled. -/
def MountRecord.discardCancelled (m : MountRecord) : MountRecord := { m with pendingDiscard := false }

theorem State.resetVolume_keeps {s : State} {d : DriveNo} (h : s.ResetKeeps d) :
    s.resetVolume d = s.updRecord d MountRecord.discardCancelled := by
  unfold State.resetVolume
  rcases h with e | e | e | e <;> rw [e] <;> rfl

theorem State.resetVolumes_keep {s : State} (h : ∀ d : DriveNo, s.ResetKeeps d) :
    driveNos.foldl State.resetVolume s = { s with records := updAll s.records MountRecord.discardCancelled } := by
  have hkeep : ∀ (u : State) (e : DriveNo), (∀ d : DriveNo, u.ResetKeeps d) →
      ∀ d : DriveNo, (u.updRecord e MountRecord.discardCancelled).ResetKeeps d := fun u e hu d => by
    have hv : (u.updRecord e MountRecord.discardCancelled).volume d = u.volume d := by
      unfold State.volume
      rw [State.updRecord_records, upd_get]
      split
      · rename_i he; subst he; rfl
      · rfl
    unfold State.ResetKeeps
    rw [hv]
    exact hu d
  have h1 := hkeep s 0 h
  have h2 := hkeep _ 1 h1
  have h3 := hkeep _ 2 h2
  simp only [driveNos, List.foldl_cons, List.foldl_nil]
  rw [State.resetVolume_keeps (h 0), State.resetVolume_keeps (h1 1), State.resetVolume_keeps (h2 2), State.resetVolume_keeps (h3 3)]
  refine congrArg (fun rs => ({ s with records := rs } : State)) (Vector.ext_fin fun e => ?_)
  simp only [State.updRecord_records, upd_get, updAll_get]
  fin_cases e <;> rfl

/-- A slot whose pending write is removed. -/
def Slot.pendingRemoved (t : Slot) : Slot := { t with pendingWrite := none }

theorem State.resetDrops_rest {s : State} (h : ∀ d : DriveNo, s.drives[d].queue = []) :
    s.resetDrops = { s with slots := s.slots.map Slot.pendingRemoved } := by
  have hfill : ∀ d : DriveNo, s.fillSlots d (fun _ => true) = [] := fun d => by
    unfold State.fillSlots State.slotsWhere
    rw [h d]
    simp
  have hks : s.slotsWhere (fun k _ => driveNos.any (fun d => (s.fillSlots d (fun _ => true)).contains k)) = [] := by
    unfold State.slotsWhere
    simp [hfill]
  unfold State.resetDrops
  rw [hks]
  simp only [driveNos, List.foldl_cons, List.foldl_nil]
  rw [State.dropOps_nil (h 0), State.dropOps_nil (h 1), State.dropOps_nil (h 2), State.dropOps_nil (h 3)]
  rfl

/-- The only slot that a condition holds of. -/
theorem State.slotsWhere_single {s : State} {q : Nat → Slot → Bool} {k : Nat} (hk : k < s.slots.length)
    (h : ∀ j, j < s.slots.length → (q j (s.slot j) = true ↔ j = k)) : s.slotsWhere q = [k] := by
  have hsame : s.slotsWhere q = (List.range s.slots.length).filter (· == k) := List.filter_congr fun j hj => by
    rw [Bool.eq_iff_iff]
    simpa using h j (List.mem_range.mp hj)
  rw [hsame, List.filter_beq, List.count_eq_one_of_mem List.nodup_range (List.mem_range.mpr hk), List.replicate_one]

theorem State.slotsWhere_nil {s : State} {q : Nat → Slot → Bool} (h : ∀ j, j < s.slots.length → q j (s.slot j) = false) :
    s.slotsWhere q = [] := by
  refine List.eq_nil_iff_forall_not_mem.mpr fun j hj => ?_
  obtain ⟨hlt, hq⟩ := State.mem_slotsWhere.mp hj
  rw [h j hlt] at hq
  cases hq

/-! ### The drain's first WRITE -/

/-- The drain does not end while a WRITE is left (R157). -/
theorem State.drainStep_waits {s : State} {d : DriveNo} {o : Op} (h : o ∈ s.drives[d].queue) (ho : o.work.isWrite = true) :
    s.drainStep = none := by
  have hleft : s.writesLeft = true := by
    unfold State.writesLeft
    rw [List.any_eq_true]
    refine ⟨s.drives[d], ?_, List.any_eq_true.mpr ⟨o, h, ho⟩⟩
    rw [Vector.mem_toList_iff]
    exact Vector.getElem_mem _
  unfold State.drainStep
  rw [hleft, if_neg (by simp)]

/-- A stopped drive begins its work with its one queued operation (R81, R82, R114). -/
theorem State.selectStep_starts {s : State} {d : DriveNo} {o : Op}
    (hq : s.drives[d].queue = [{ o with enqueued := s.now, promoted := s.now, phase := .queued }])
    (hm : s.drives[d].media = .stopped) :
    s.selectStep d = some { s with drives := upd s.drives d (fun v => v.startedFor o s.now) } := by
  rw [State.selectStep_single hq rfl (by rw [hm]; exact nofun), State.choose_single hq]
  refine congrArg some ?_
  unfold State.motorStage
  dsimp only
  rw [upd_get_same]
  simp only [Drive.gain, hm]
  unfold State.updDrive
  dsimp only
  rw [upd_upd]
  rfl

/-- A drain whose one WRITE waits on a stopped drive, the other drives at rest: the motor starts for it (R81, R157). -/
theorem State.schedule_drainStarts {s : State} {d : DriveNo} {o : Op} (hv : ∀ e : DriveNo, s.NoDrain e)
    (hq : s.drives[d].queue = [{ o with enqueued := s.now, promoted := s.now, phase := .queued }]) (ho : o.work.isWrite = true)
    (hm : s.drives[d].media = .stopped) (hw : s.drives[d].watch = none) (hrest : ∀ e : DriveNo, e ≠ d → s.drives[e].Resting) :
    s.schedule = { s with drives := upd s.drives d (fun v => v.startedFor o s.now) } := by
  let t : State := { s with drives := upd s.drives d (fun v => v.startedFor o s.now) }
  have hsame : t.drives[d] = s.drives[d].startedFor o s.now := upd_get_same ..
  have hother : ∀ e : DriveNo, e ≠ d → t.drives[e] = s.drives[e] := fun e he => upd_get_ne _ _ (Ne.symm he)
  have hsteady : ∀ e : DriveNo, t.drives[e].Steady := fun e => by
    by_cases he : e = d
    · subst he; rw [hsame]; exact Drive.startedFor_steady hw _ _
    · rw [hother e he]; exact (hrest e he).steady
  have hnext : s.nextStep = some t := by
    have h1 : driveNos.findSome? s.volumeStep = none := by
      rw [List.findSome?_eq_none_iff]; exact fun e _ => State.volumeStep_none (hv e)
    have h3 : driveNos.findSome? s.selectStep = some t := by
      have key : ∀ e : DriveNo, s.selectStep e = if e = d then some t else none := fun e => by
        split
        · rename_i he; subst he; exact State.selectStep_starts hq hm
        · rename_i he; exact State.selectStep_nil (hrest e he).1
      simp only [driveNos, List.findSome?_cons, List.findSome?_nil, key]
      clear_value t
      fin_cases d <;> rfl
    unfold State.nextStep
    rw [h1, State.drainStep_waits (d := d) (o := { o with enqueued := s.now, promoted := s.now, phase := .queued })
      (by rw [hq]; exact List.mem_singleton_self _) ho, h3]
    rfl
  have hlast : t.nextStep = none := by
    refine t.nextStep_eq_none.mpr ⟨fun e => State.volumeStep_none (hv e), ?_, fun e => State.selectStep_steady (hsteady e).1,
      State.arbiterStep_none fun e => ?_⟩
    · refine State.drainStep_waits (d := d) (o := { o with enqueued := s.now, promoted := s.now, phase := .seeking }) ?_ ho
      rw [hsame, Drive.startedFor_queue]
      exact List.mem_singleton_self _
    · by_cases he : e = d
      · subst he
        rw [hsame]
        unfold Drive.startedFor Drive.positionedOp Drive.currentOp
        simp [Op.isCurrent]
      · rw [hother e he]
        exact Drive.positionedOp_of_none (Drive.currentOp_nil (hrest e he).1)
  rw [State.schedule_step hnext hlast, State.notices_steady hsteady]

/-- Settles O6: what every bus reset keeps and leaves, and the drain of one dirty slot. -/
theorem busResetStopsWatching : Obligations.BusResetStopsWatching := by
  refine ⟨fun s hrun => ?_, fun k key s hidle hk hkey hres hdirty hclean hpend hvol hlost hm => ?_⟩
  · have hkeep := s.keeps_resetEffects
    have hwrites := s.resetEffects_writesOnly
    rw [exec_busReset_running hrun]
    generalize s.resetEffects = u at hkeep hwrites ⊢
    obtain ⟨hpending, hwaiters, hdrives, hlayout⟩ := State.finish_keeps s u
    have hphase : u.phase = .draining ∨ u.phase = .rewriting 2 := hkeep.phase.imp id And.right
    refine ⟨_, rfl, by rw [State.finish_phase]; exact hphase, hlayout.trans hkeep.layout,
      (State.finish_straps s _).trans hkeep.straps, hpending.trans hkeep.pending, fun r => by rw [hwaiters]; exact hwrites.waiters r,
      fun d o ho => ?_, fun hdr => ?_, fun hrw => ?_, fun hone => ?_, fun a ha hb => ?_⟩
    · rw [hdrives] at ho
      exact hwrites.writes d o ho
    · rw [State.finish_phase] at hdr
      rw [State.finish_withMem (by unfold drainEnded; rw [hdr])]
      exact ⟨hkeep.settings, hkeep.classes, hkeep.host⟩
    · rw [State.finish_phase] at hrw
      rcases State.finish_cases s u with ⟨hd, -⟩ | ⟨-, h⟩
      · unfold drainEnded at hd
        rw [hrw, hrun] at hd
        cases hd
      · rw [h]
        exact ⟨rfl, fun r => Vector.getElem_replicate .., State.attention_rewriteCopies _⟩
    · have hbyte : ∀ u : State, u.cbByte 0 = some (loByte u.layoutVersion) := fun u => by
        unfold State.cbByte State.headerByte
        rw [if_pos (by decide)]
        rfl
      refine State.read_finish (b := 0) ?_ fun h => ?_
      · rw [hbyte, hkeep.layout]; rfl
      · rw [hbyte, hone] at h; cases h
    · rw [State.read_finish_outside (s := s) hkeep.straps hb]
      exact hkeep.low a ha
  · let x : State := s.bumped.resetFront
    let o : Op :=
      { work := .write k (s.slot k).generation false
        reason := some .reset
        cylinder := key.cylinder
        head := key.head
        cls := .urgent
        enqueued := s.eventStamp
        promoted := s.eventStamp
        phase := .seeking }
    have hvolumes : driveNos.foldl State.resetVolume x = x := by
      rw [State.resetVolumes_keep (s := x) fun d => (hvol d).2]
      refine congrArg (fun rs => ({ x with records := rs } : State)) (Vector.ext_fin fun d => ?_)
      rw [updAll_get]
      unfold MountRecord.discardCancelled
      rw [← (hvol d).1]
      rfl
    have hdrops : x.resetDrops = x := by
      rw [State.resetDrops_rest (s := x) fun d => (hidle.2 d).1.1]
      refine congrArg (fun sl => ({ x with slots := sl } : State)) ?_
      refine (List.map_congr_left (g := id) fun t ht => ?_).trans (List.map_id _)
      obtain ⟨j, hj, rfl⟩ := List.mem_iff_getElem.mp ht
      have hp := hpend j
      rw [State.slot_eq_getElem (s := s) hj] at hp
      show (s.slots[j]'hj).pendingRemoved = s.slots[j]'hj
      unfold Slot.pendingRemoved
      rw [← hp]
    have hresetDirty : x.resetDirty = [k] := State.slotsWhere_single (s := x) hk fun j hj => by
      by_cases hjk : j = k
      · subst hjk
        simp only [show x.slot j = s.slot j from rfl, hdirty, hkey, iff_true]
        simpa using! hlost
      · simp [show x.slot j = s.slot j from rfl, hclean j hjk, hjk]
    let u : State := { x with
      slots := s.slots.modify k (fun t => { t with writeFailed := false })
      drives := upd s.drives key.drive (fun v => { v with
        queue := [{ o with enqueued := x.now, promoted := x.now, phase := .queued }] }) }
    have hwrites : x.resetWrites = u := by
      unfold State.resetWrites
      rw [hresetDirty]
      exact State.requestWriteFor_first (s := x) hkey hk (hidle.2 key.drive).1.1 .reset .urgent
    have hdrive : u.drives[key.drive] =
        { s.drives[key.drive] with queue := [{ o with enqueued := x.now, promoted := x.now, phase := .queued }] } := upd_get_same ..
    have hsched : s.resetEffects = { u with drives := upd s.drives key.drive (fun v => v.startedFor o s.eventStamp) } := by
      have hstart := State.schedule_drainStarts (s := u) (d := key.drive) (o := o) (fun e => (hidle.2 e).2) (by rw [hdrive]) rfl
        (by rw [hdrive]; exact hm) (by rw [hdrive]; exact (hidle.2 key.drive).1.2.2)
        (fun e he => by rw [show u.drives[e] = s.drives[e] from upd_get_ne _ _ (Ne.symm he)]; exact (hidle.2 e).1)
      unfold State.resetEffects
      rw [hvolumes, hdrops, hwrites, hstart]
      exact congrArg (fun ds => ({ u with drives := ds } : State)) (by dsimp only [u]; rw [upd_upd]; rfl)
    rw [exec_busReset_running hidle.1, hsched]
    exact ⟨_, rfl, State.finish_stores_of rfl rfl rfl⟩

end Sys2Proof.Machine
end

section
/-! SUPPORT. The end of the drain, and the bus resets that come to it. -/

namespace Sys2Proof.Machine

/-! ### What the end of the drain does -/

/-- The record of a volume that has become UNMOUNTED (R126). -/
def MountRecord.unmounted (m : MountRecord) : MountRecord :=
  { m with
    state := .unmounted
    progress := none
    flushSet := []
    flushFailed := false
    pendingDiscard := false
    host := { m.host with guardLock := false } }

theorem State.drainVolume_eq (s : State) (d : DriveNo) : s.drainVolume d = { s with
    records := upd s.records d (fun m => if s.strandedSlots d = [] then m.unmounted else { m with state := .lost })
    geometry := upd s.geometry d (fun g => if s.strandedSlots d = [] then none else g) } := by
  unfold State.drainVolume
  by_cases h : s.strandedSlots d = []
  · simp only [if_pos h]
    rfl
  · simp only [if_neg h]
    exact congrArg (fun g => ({ s.updRecord d (fun m => { m with state := .lost }) with geometry := g } : State)) (upd_same _ _ rfl).symm

/-- The volumes at the end of the drain: LOST where a slot is STRANDED, UNMOUNTED elsewhere (R157). -/
theorem State.drainVolumes_eq (s : State) : driveNos.foldl State.drainVolume s = { s with
    records := (driveNos.foldl State.drainVolume s).records, geometry := (driveNos.foldl State.drainVolume s).geometry } := by
  simp only [driveNos, List.foldl_cons, List.foldl_nil, State.drainVolume_eq]

theorem State.drainVolumes_record (s : State) (d : DriveNo) : (driveNos.foldl State.drainVolume s).records[d] =
    if s.strandedSlots d = [] then s.records[d].unmounted else { s.records[d] with state := .lost } := by
  simp only [driveNos, List.foldl_cons, List.foldl_nil, State.drainVolume_eq, upd_get]
  fin_cases d <;> rfl

theorem State.drainVolumes_geometry (s : State) (d : DriveNo) : (driveNos.foldl State.drainVolume s).geometry[d] =
    if s.strandedSlots d = [] then none else s.geometry[d] := by
  simp only [driveNos, List.foldl_cons, List.foldl_nil, State.drainVolume_eq, upd_get]
  fin_cases d <;> rfl

/-- The slots that the end of the drain frees (R157). -/
def State.drainFrees (s : State) : List Nat := s.slotsWhere (fun _ t => decide (t.state ≠ .free) && decide (t.state ≠ .stranded))

/-- The slots at the end of the drain: those left DIRTY are STRANDED, the others FREE (R157). -/
def State.drainSlots (s : State) : State :=
  (s.leftDirty.foldl State.strandSlot s).freeSlots (s.leftDirty.foldl State.strandSlot s).drainFrees

theorem State.drainSlots_eq (s : State) : s.drainSlots = { s with
    slots := s.drainSlots.slots, mem := s.drainSlots.mem, recency := s.drainSlots.recency, freeList := s.drainSlots.freeList } := by
  have h : ∀ u : State, u = { s with slots := u.slots, mem := u.mem } → ∀ ks, u.freeSlots ks = { s with
      slots := (u.freeSlots ks).slots, mem := (u.freeSlots ks).mem, recency := (u.freeSlots ks).recency,
      freeList := (u.freeSlots ks).freeList } := fun u hu ks => by
    rw [State.freeSlots_eq, hu]
  exact h _ (by conv_lhs => rw [State.strandSlots_eq]
                conv_rhs => rw [State.strandSlots_eq]) _

theorem State.drainEnd_eq {s : State} (h : s.NoSlotWaits) : s.drainEnd = { s.drainSlots with
    records := (driveNos.foldl State.drainVolume s.drainSlots).records
    geometry := (driveNos.foldl State.drainVolume s.drainSlots).geometry
    phase := .rewriting 2 } := by
  have hdef : s.drainEnd = { (driveNos.foldl State.drainVolume s.drainSlots).released
    (s.leftDirty.foldl State.strandSlot s).drainFrees none with phase := .rewriting 2 } := rfl
  have hvolumes := State.drainVolumes_eq s.drainSlots
  have hslots := s.drainSlots_eq
  rw [hdef]
  generalize driveNos.foldl State.drainVolume s.drainSlots = v at hvolumes ⊢
  generalize s.drainSlots = y at hvolumes hslots ⊢
  have hwaiters : v.waiters = s.waiters := by rw [hvolumes, hslots]
  rw [State.released_quiet (.inl fun r => by unfold State.slotWait; rw [hwaiters]; exact h r)]
  exact congrArg (fun t : State => ({ t with phase := .rewriting 2 } : State)) hvolumes

theorem State.drainEnd_drives {s : State} (h : s.NoSlotWaits) : s.drainEnd.drives = s.drives := by
  rw [State.drainEnd_eq h, show s.drives = s.drainSlots.drives by rw [State.drainSlots_eq]]

theorem State.drainEnd_record {s : State} (h : s.NoSlotWaits) (d : DriveNo) : s.drainEnd.records[d] =
    if s.drainSlots.strandedSlots d = [] then s.records[d].unmounted else { s.records[d] with state := .lost } := by
  have hrecords : s.drainSlots.records = s.records := by rw [State.drainSlots_eq]
  have hr : s.drainEnd.records = (driveNos.foldl State.drainVolume s.drainSlots).records := by rw [State.drainEnd_eq h]
  rw [hr, State.drainVolumes_record, hrecords]

theorem State.drainEnd_geometry {s : State} (h : s.NoSlotWaits) (d : DriveNo) : s.drainEnd.geometry[d] =
    if s.drainSlots.strandedSlots d = [] then none else s.geometry[d] := by
  have hgeometry : s.drainSlots.geometry = s.geometry := by rw [State.drainSlots_eq]
  have hg : s.drainEnd.geometry = (driveNos.foldl State.drainVolume s.drainSlots).geometry := by rw [State.drainEnd_eq h]
  rw [hg, State.drainVolumes_geometry, hgeometry]

/-- The drain ends where no operation is left (R157). -/
theorem State.schedule_drains {s : State} (hp : s.phase = .draining) (hq : ∀ e : DriveNo, s.drives[e].queue = [])
    (hv : ∀ e : DriveNo, s.NoDrain e) (hw : s.NoSlotWaits) : s.schedule = s.drainEnd.notices := by
  have hleft : s.writesLeft = false := by
    rw [← Bool.not_eq_true]
    intro h
    obtain ⟨v, hv, ho⟩ := List.any_eq_true.mp h
    obtain ⟨i, hi, rfl⟩ := Vector.mem_iff_getElem.mp (Vector.mem_toList_iff.mp hv)
    rw [hq ⟨i, hi⟩ |> (show s.drives[i].queue = [] from ·)] at ho
    cases ho
  have hdrives : s.drainEnd.drives = s.drives := State.drainEnd_drives hw
  have hvol : ∀ e : DriveNo, s.drainEnd.NoDrain e := fun e => by
    unfold State.NoDrain State.volume
    rw [State.drainEnd_record hw]
    split <;> exact ⟨nofun, nofun⟩
  have hnext : s.nextStep = some s.drainEnd := by
    have h1 : driveNos.findSome? s.volumeStep = none := by
      rw [List.findSome?_eq_none_iff]; exact fun e _ => State.volumeStep_none (hv e)
    have h2 : s.drainStep = some s.drainEnd := if_pos ⟨hp, hleft⟩
    unfold State.nextStep
    rw [h1, h2]
    rfl
  refine State.schedule_step hnext (s.drainEnd.nextStep_eq_none.mpr ⟨fun e => State.volumeStep_none (hvol e), ?_, fun e => ?_, ?_⟩)
  · refine if_neg fun h => ?_
    have hrw : s.drainEnd.phase = .rewriting 2 := by rw [State.drainEnd_eq hw]
    rw [hrw] at h
    cases h.1
  · exact State.selectStep_nil (by rw [hdrives]; exact hq e)
  · exact State.arbiterStep_none fun e => Drive.positionedOp_of_none (Drive.currentOp_nil (by rw [hdrives]; exact hq e))

theorem State.mem_strandedSlots {s : State} {d : DriveNo} {k : Nat} :
    k ∈ s.strandedSlots d ↔ k < s.slots.length ∧ (s.slot k).onDrive d = true ∧ (s.slot k).state = .stranded := by
  unfold State.strandedSlots
  rw [State.mem_slotsWhere, Bool.and_eq_true, decide_eq_true_eq]

theorem State.drainSlots_clean {s : State} (h : s.leftDirty = []) : s.drainSlots = s.freeSlots s.drainFrees := by
  unfold State.drainSlots
  rw [h]
  rfl

/-- A record after the rewrite's values (R158). -/
theorem State.rewriteCopies_record (s : State) (d : DriveNo) : s.rewriteCopies.records[d] =
    if s.records[d].state = .lost then { s.records[d] with outcome := .none } else MountRecord.initial := by
  show (updAll s.records _)[d] = _
  rw [updAll_get]

theorem State.read_drained {s u : State} (hu : u.straps = s.straps) {a : Nat} (ha : ¬ s.inControlBlock a) :
    Memory.read (u.withMem (s.eventMem u)).rewriteCopies.mem a = Memory.read u.mem a := by
  have hmem := State.read_finish_outside hu ha
  rw [State.finish_mem] at hmem
  rw [State.rewriteCopies_mem]
  generalize s.eventMem u = m at hmem ⊢
  exact hmem

/-- The event in which the drain ends (R157, R158). -/
theorem State.finish_drained {s u : State} (hs : ∀ n, s.phase ≠ .rewriting n) (hu : u.phase = .rewriting 2) :
    s.finish u = (u.withMem (s.eventMem u)).rewriteCopies := by
  rcases State.finish_cases s u with ⟨hd, -⟩ | ⟨-, h⟩
  · unfold drainEnded at hd
    rw [hu] at hd
    revert hd
    dsimp only
    split
    · rename_i n hn; exact absurd hn (hs n)
    · exact nofun
  · exact h

/-! ### A bus reset with nothing to write -/

theorem State.slot_mapSlots {s : State} {f : Slot → Slot} {k : Nat} (hk : k < s.slots.length) :
    ({ s with slots := s.slots.map f } : State).slot k = f (s.slot k) := by
  unfold State.slot
  dsimp only
  rw [List.getD_eq_getElem _ _ (by rw [List.length_map]; exact hk), List.getD_eq_getElem _ _ hk, List.getElem_map]

/-- A slot of a part with nothing to write: FREE, RESIDENT without a DIRTY sector, or STRANDED of a volume that is LOST. -/
abbrev State.SlotSettled (s : State) (k : Nat) : Prop :=
  ((s.slot k).state = .free ∧ (s.slot k).key = none ∧ (s.slot k).pendingWrite = none) ∨
    ((s.slot k).state = .resident ∧ (s.slot k).dirty = false ∧ (s.slot k).key ≠ none) ∨
    ((s.slot k).state = .stranded ∧ (s.slot k).pendingWrite = none ∧
      ∃ key, (s.slot k).key = some key ∧ s.volume key.drive = .lost)

/-- The part at the end of a bus reset's step 3, with its drives at rest and its volumes left in their states. -/
def State.resetRest (s : State) : State :=
  { s.bumped.resetFront with
    records := updAll s.records MountRecord.discardCancelled, slots := s.slots.map Slot.pendingRemoved }

theorem State.resetRest_volume (s : State) (d : DriveNo) : s.resetRest.volume d = s.volume d := by
  unfold State.volume
  rw [show s.resetRest.records = updAll s.records MountRecord.discardCancelled from rfl, updAll_get]
  rfl

theorem State.resetRest_slot {s : State} {k : Nat} (hk : k < s.slots.length) : s.resetRest.slot k = (s.slot k).pendingRemoved :=
  State.slot_mapSlots (s := s) hk

theorem State.resetRest_length (s : State) : s.resetRest.slots.length = s.slots.length := List.length_map ..

/-- No slot is to be written (R156 step 4, R157). -/
theorem State.resetRest_nothing {s : State} (h : ∀ k, k < s.slots.length → s.SlotSettled k) :
    s.resetRest.resetDirty = [] ∧ s.resetRest.leftDirty = [] := by
  refine ⟨State.slotsWhere_nil fun k hk => ?_, State.slotsWhere_nil fun k hk => ?_⟩
  all_goals
    rw [State.resetRest_length] at hk
    rw [State.resetRest_slot hk]
    rcases h k hk with ⟨h1, h2, -⟩ | ⟨-, h2, -⟩ | ⟨h1, -, key, h3, h4⟩
    · simp [Slot.pendingRemoved, h2]
    · have hd : (s.slot k).pendingRemoved.dirty = false := h2
      simp [hd]
    · simp [Slot.pendingRemoved, h3, State.resetRest_volume, h4]

theorem State.resetEffects_rest {s : State} (hidle : s.Idle) (h : ∀ k, k < s.slots.length → s.SlotSettled k)
    (hvol : ∀ d : DriveNo, s.ResetKeeps d) : s.resetEffects = s.resetRest.drainEnd := by
  have hvolumes : driveNos.foldl State.resetVolume s.bumped.resetFront =
      { s.bumped.resetFront with records := updAll s.records MountRecord.discardCancelled } :=
    State.resetVolumes_keep (s := s.bumped.resetFront) hvol
  have hdrops : ({ s.bumped.resetFront with records := updAll s.records MountRecord.discardCancelled } : State).resetDrops = s.resetRest :=
    State.resetDrops_rest fun d => (hidle.2 d).1.1
  have hwrites : s.resetRest.resetWrites = s.resetRest := by
    unfold State.resetWrites
    rw [(State.resetRest_nothing h).1]
    rfl
  have hwait : s.resetRest.NoSlotWaits := fun r => by
    unfold State.slotWait
    rw [show s.resetRest.waiters[r] = .empty from Vector.getElem_replicate ..]
    rfl
  unfold State.resetEffects
  rw [hvolumes, hdrops, hwrites, State.schedule_drains (s := s.resetRest) rfl (fun e => (hidle.2 e).1.1)
    (fun e => by unfold State.NoDrain; rw [State.resetRest_volume]; exact (hidle.2 e).2) hwait]
  exact State.notices_steady fun d => by
    rw [State.drainEnd_drives hwait]
    exact (hidle.2 d).1.steady

/-- The slots that the end of the drain frees of such a part are its RESIDENT ones. -/
theorem State.resetRest_drainFrees {s : State} (h : ∀ k, k < s.slots.length → s.SlotSettled k) :
    s.resetRest.drainFrees = s.slotsWhere (fun _ x => decide (x.state = .resident)) := by
  unfold State.drainFrees State.slotsWhere
  rw [State.resetRest_length]
  refine List.filter_congr fun k hk => ?_
  have hlt := List.mem_range.mp hk
  rw [State.resetRest_slot hlt]
  show (decide ((s.slot k).state ≠ .free) && decide ((s.slot k).state ≠ .stranded)) = decide ((s.slot k).state = .resident)
  rcases h k hlt with ⟨h1, -⟩ | ⟨h1, -⟩ | ⟨h1, -⟩ <;> rw [h1] <;> rfl

/-- A slot of such a part once the drain has ended. -/
theorem State.drainSlots_rest {s : State} (h : ∀ k, k < s.slots.length → s.SlotSettled k) {k : Nat} (hk : k < s.slots.length) :
    s.resetRest.drainSlots.slot k = if (s.slot k).state = .resident then (s.slot k).freed else s.slot k := by
  have hz : k < s.resetRest.slots.length := by rw [State.resetRest_length]; exact hk
  rw [State.drainSlots_clean (State.resetRest_nothing h).2, State.slot_freeSlots _ _ hz, State.resetRest_drainFrees h,
    State.resetRest_slot hk]
  refine if_ctx_congr (by rw [State.mem_slotsWhere, decide_eq_true_eq]; exact and_iff_right hk) (fun _ => rfl) fun hne => ?_
  unfold Slot.pendingRemoved
  rcases h k hk with ⟨-, -, h1⟩ | ⟨h1, -⟩ | ⟨-, h1, -⟩
  · rw [← h1]
  · exact absurd h1 hne
  · rw [← h1]

theorem State.drainSlots_rest_length {s : State} (h : ∀ k, k < s.slots.length → s.SlotSettled k) :
    s.resetRest.drainSlots.slots.length = s.slots.length := by
  rw [State.drainSlots_clean (State.resetRest_nothing h).2, State.length_freeSlots, State.resetRest_length]

/-- Its STRANDED slots are the ones it had. -/
theorem State.drainSlots_rest_stranded {s : State} (h : ∀ k, k < s.slots.length → s.SlotSettled k) {d : DriveNo} {k : Nat} :
    k ∈ s.resetRest.drainSlots.strandedSlots d ↔ k < s.slots.length ∧ (s.slot k).state = .stranded ∧ (s.slot k).onDrive d = true := by
  rw [State.mem_strandedSlots, State.drainSlots_rest_length h]
  refine and_congr_right fun hk => ?_
  rw [State.drainSlots_rest h hk]
  by_cases hr : (s.slot k).state = .resident
  · rw [if_pos hr, hr]
    exact ⟨fun g => (nomatch g.2), fun g => (nomatch g.1)⟩
  · rw [if_neg hr]
    exact and_comm

/-- A bus reset of a part with nothing to write: the drain ends at once (R156, R157, R158). -/
theorem exec_busReset_rest {s : State} (hidle : s.Idle) (h : ∀ k, k < s.slots.length → s.SlotSettled k)
    (hvol : ∀ d : DriveNo, s.ResetKeeps d) : exec .busReset s =
      .next ((s.resetRest.drainEnd.withMem (s.eventMem s.resetRest.drainEnd)).rewriteCopies) := by
  rw [exec_busReset_running hidle.1, State.resetEffects_rest hidle h hvol,
    State.finish_drained (s := s) (u := s.resetRest.drainEnd) (by rw [hidle.1]; exact fun _ => nofun) rfl]

theorem State.resetRest_waits (s : State) : s.resetRest.NoSlotWaits := fun r => by
  unfold State.slotWait
  rw [show s.resetRest.waiters[r] = .empty from Vector.getElem_replicate ..]
  rfl

/-- The end of that drain, before the copies take the rewrite's values. -/
theorem State.drainEnd_rest {s : State} (h : ∀ k, k < s.slots.length → s.SlotSettled k) : s.resetRest.drainEnd = { s with
    now := s.eventStamp
    phase := .rewriting 2
    layoutVersion := 0
    waiters := Vector.replicate 8 .empty
    slots := s.resetRest.drainSlots.slots
    freeList := s.freeList ++ s.slotsWhere (fun _ x => decide (x.state = .resident))
    recency := (s.slotsWhere (fun _ x => decide (x.state = .resident))).foldl (fun r k => r.erase k) s.recency
    geometry := s.resetRest.drainEnd.geometry
    records := s.resetRest.drainEnd.records } := by
  have hslots : s.resetRest.drainSlots = { s.resetRest with
      slots := s.resetRest.drainSlots.slots
      recency := (s.slotsWhere (fun _ x => decide (x.state = .resident))).foldl (fun r k => r.erase k) s.recency
      freeList := s.freeList ++ s.slotsWhere (fun _ x => decide (x.state = .resident)) } := by
    rw [State.drainSlots_clean (State.resetRest_nothing h).2, State.freeSlots_eq, State.resetRest_drainFrees h]
    rfl
  rw [State.drainEnd_eq s.resetRest_waits]
  generalize s.resetRest.drainSlots = y at hslots ⊢
  generalize driveNos.foldl State.drainVolume y = v
  rw [hslots]
  rfl

end Sys2Proof.Machine
end

section
/-! SUPPORT. The end of a drain whose one WRITE fails. -/

namespace Sys2Proof.Machine

/-! ### A drain that leaves one slot DIRTY -/

/-- One slot holds DIRTY sectors, of a volume that is not LOST and none in flight; the others are FREE. -/
structure State.OneDirty (s : State) (k : Nat) (key : Key) : Prop where
  inForce : k < s.slots.length
  keyed : (s.slot k).key = some key
  resident : (s.slot k).state = .resident
  dirty : (s.slot k).dirty = true
  settled : ∀ e ∈ (s.slot k).sectors, e.state = .valid ∨ e.state = .dirty ∨ e.state = .damaged
  kept : s.volume key.drive ≠ .lost
  free : ∀ j, j < s.slots.length → j ≠ k → (s.slot j).state = .free

theorem State.OneDirty.leftDirty {s : State} {k : Nat} {key : Key} (h : s.OneDirty k key) : s.leftDirty = [k] :=
  State.slotsWhere_single h.inForce fun j hj => by
    by_cases hjk : j = k
    · subst hjk
      simp [h.dirty, h.resident, h.keyed, h.kept]
    · simp [h.free j hj hjk, hjk]

theorem State.slot_strandSlot {s : State} {k : Nat} (hk : k < s.slots.length) : (s.strandSlot k).slot k = (s.slot k).stranded :=
  State.slot_updSlot_same hk

theorem State.slot_strandSlot_ne {s : State} {k j : Nat} (hj : j ≠ k) : (s.strandSlot k).slot j = s.slot j :=
  State.slot_updSlot_ne (Ne.symm hj)

theorem State.length_strandSlot (s : State) (k : Nat) : (s.strandSlot k).slots.length = s.slots.length := List.length_modify ..

/-- The slot left DIRTY is STRANDED, and no slot becomes FREE (R157). -/
theorem State.OneDirty.drainSlots {s : State} {k : Nat} {key : Key} (h : s.OneDirty k key) : s.drainSlots = s.strandSlot k := by
  have hnone : (s.strandSlot k).drainFrees = [] := State.slotsWhere_nil fun j hj => by
    rw [State.length_strandSlot] at hj
    by_cases hjk : j = k
    · subst hjk
      rw [State.slot_strandSlot hj]
      rfl
    · rw [State.slot_strandSlot_ne hjk, h.free j hj hjk]
      rfl
  unfold State.drainSlots
  rw [h.leftDirty, List.foldl_cons, List.foldl_nil, hnone]
  rfl

/-- The other drives have no STRANDED slot then. -/
theorem State.OneDirty.strandedSlots {s : State} {k : Nat} {key : Key} (h : s.OneDirty k key) (d : DriveNo) :
    s.drainSlots.strandedSlots d = [] ↔ d ≠ key.drive := by
  have hon : (s.slot k).stranded.onDrive d = decide (key.drive = d) := by
    show (s.slot k).onDrive d = _
    unfold Slot.onDrive
    rw [h.keyed, Option.any_some]
  rw [h.drainSlots, List.eq_nil_iff_forall_not_mem]
  refine ⟨fun hn he => hn k ?_, fun hne j hj => ?_⟩
  · rw [State.mem_strandedSlots, State.length_strandSlot, State.slot_strandSlot h.inForce]
    exact ⟨h.inForce, hon.trans (decide_eq_true he.symm), rfl⟩
  · rw [State.mem_strandedSlots, State.length_strandSlot] at hj
    obtain ⟨hlt, hd, hst⟩ := hj
    by_cases hjk : j = k
    · subst hjk
      rw [State.slot_strandSlot hlt, hon, decide_eq_true_eq] at hd
      exact hne hd.symm
    · rw [State.slot_strandSlot_ne hjk, h.free j hlt hjk] at hst
      cases hst

/-- The end of that drain (R157). -/
theorem State.OneDirty.drainEnd {s : State} {k : Nat} {key : Key} (h : s.OneDirty k key) (hwait : s.NoSlotWaits) :
    s.drainEnd = { s with
      slots := s.slots.modify k (fun t =>
        { t with state := .stranded, dirtySince := none, yields := 0, active := none, pendingWrite := none })
      records := s.drainEnd.records
      geometry := s.drainEnd.geometry
      phase := .rewriting 2 } := by
  have hmem : (s.strandSlot k).mem = s.mem := State.strandSlot_mem fun e he => by
    rcases h.settled e he with g | g | g <;> rw [g] <;> exact nofun
  have hslots : (s.strandSlot k).slots = s.slots.modify k (fun t =>
      { t with state := .stranded, dirtySince := none, yields := 0, active := none, pendingWrite := none }) :=
    modify_congr_getD _ _ _ (Slot.stranded_of_settled h.settled)
  have hstrand : s.strandSlot k = { s with slots := (s.strandSlot k).slots, mem := (s.strandSlot k).mem } := rfl
  rw [hslots, hmem] at hstrand
  rw [State.drainEnd_eq hwait, h.drainSlots, hstrand]

theorem State.OneDirty.drainEnd_record {s : State} {k : Nat} {key : Key} (h : s.OneDirty k key) (hwait : s.NoSlotWaits)
    (d : DriveNo) : s.drainEnd.records[d] =
      if d = key.drive then { s.records[d] with state := .lost } else s.records[d].unmounted := by
  rw [State.drainEnd_record hwait]
  by_cases hd : d = key.drive
  · rw [if_neg fun g => (h.strandedSlots d).mp g hd, if_pos hd]
  · rw [if_pos ((h.strandedSlots d).mpr hd), if_neg hd]

theorem State.OneDirty.drainEnd_geometry {s : State} {k : Nat} {key : Key} (h : s.OneDirty k key) (hwait : s.NoSlotWaits)
    (d : DriveNo) : s.drainEnd.geometry[d] = if d = key.drive then s.geometry[d] else none := by
  rw [State.drainEnd_geometry hwait]
  by_cases hd : d = key.drive
  · rw [if_neg fun g => (h.strandedSlots d).mp g hd, if_pos hd]
  · rw [if_pos ((h.strandedSlots d).mpr hd), if_neg hd]

/-! ### A WRITE that fails while nothing else waits for it -/

/-- A failed WRITE asks for nothing where no flush, freeze or slot-waiter has to do with its slot (R140, R142, R144). -/
theorem State.afterWrite_failed {s : State} {d : DriveNo} {k : Nat} (hdrain : s.NoDrain d) (hflush : s.records[d].flushSet = [])
    (hfail : (s.slot k).writeFailed = true) (hdirty : (s.slot k).dirty = true) (hwait : s.NoSlotWaits) (evict : Bool) :
    s.afterWrite d k evict .failed = s := by
  have hf : s.flushEnd d k .failed = s := by
    unfold State.flushEnd
    rw [hflush]
    rfl
  have hz : s.freezeEnd d k .failed = s := by
    unfold State.freezeEnd
    rw [State.writingOut_false hdrain, if_neg (by simp)]
  have ha : s.ageCheck k = s := by
    unfold State.ageCheck State.ageReady
    dsimp only
    rw [hfail, if_neg (by simp)]
  have he : s.evictionRepeat = s := by
    unfold State.evictionRepeat
    rw [State.slotWaiters_nil hwait]
    rfl
  unfold State.afterWrite
  dsimp only
  rw [hf, hz, State.askAgain_none hdrain, ha, if_neg (by rw [hdirty]; exact nofun), he, ite_self]

theorem Slot.writeFails_settled {t : Slot} (h : ∀ e ∈ t.sectors, e.state = .valid ∨ e.state = .dirty ∨ e.state = .damaged)
    (hdirty : t.dirty = true) (now : Nat) : t.writeFails now =
      { t with state := .resident, dirtySince := some now, writeFailed := true, yields := 0, active := none } := by
  have hmap : t.sectors.map Sector.undo = t.sectors := by
    refine (List.map_congr_left (g := id) fun e he => ?_).trans (List.map_id _)
    unfold Sector.undo
    rcases h e he with g | g | g <;> simp [g]
  have hsame : t.mapSectors Sector.undo = t := by
    unfold Slot.mapSectors
    rw [hmap]
  unfold Slot.writeFails
  dsimp only
  rw [hsame, hdirty, if_pos rfl]

/-- A spin-up that ends with READY false fails the operation that waits for it (R114). -/
theorem State.spinUpEnds_notReady {s : State} {d : DriveNo} (hr : s.pins.ready.getLsbD d.val = false)
    (hc : s.drives[d].current = true) : s.spinUpEnds d =
      (s.updDrive d (fun w => { w with media := .stopped, spinUp := none })).opFailed d .notReady := by
  unfold State.spinUpEnds
  dsimp only
  rw [hr, hc, if_neg (by simp), if_pos rfl]

/-- A drive whose operation has failed with the spin-up it waited for. -/
def Drive.halted (v : Drive) : Drive :=
  { v with
    queue := []
    media := .stopped
    spinUp := none
    headUnload := none
    motorIdle := none
    move := .idle
    moved := false
    watch := none }

theorem Drive.halted_noticed {v : Drive} (h : v.current = true) (now delay : Nat) :
    v.halted.noticed now delay = { v.halted with current := false } := by
  rw [Drive.noticed_lost (v := v.halted) rfl h]
  rfl

/-- A WRITE that waits for a spin-up which fails: its slot keeps its DIRTY sectors, its drive stops (R55, R83, R114). -/
theorem State.spinUpEnds_failsWrite {s : State} {d : DriveNo} {k : Nat} {o : Op} (hr : s.pins.ready.getLsbD d.val = false)
    (hc : s.drives[d].current = true) (hq : s.drives[d].queue = [o]) (hslot : o.work.slot? = some k) (hwrite : o.work.isWrite = true)
    (ho : o.phase = .seeking) (hk : k < s.slots.length) (hst : (s.slot k).state = .resident) (hdirty : (s.slot k).dirty = true)
    (hsec : ∀ e ∈ (s.slot k).sectors, e.state = .valid ∨ e.state = .dirty ∨ e.state = .damaged) (hwait : s.NoSlotWaits)
    (hdrain : s.NoDrain d) (hflush : s.records[d].flushSet = []) (hpend : s.records[d].pendingDiscard = false) :
    s.spinUpEnds d = { s with
      drives := upd s.drives d Drive.halted
      faults := upd s.faults (Fin.castSucc d) (fun r =>
        r.take { code := .notReady, requester := none, cylinder := some o.cylinder, head := some o.head, sectorId := none })
      slots := s.slots.modify k (fun t =>
        { t with state := .resident, dirtySince := some s.now.ms, writeFailed := true, yields := 0, active := none }) } := by
  let y : State := s.updDrive d (fun w => { w with media := .stopped, spinUp := none })
  have hyq : y.drives[d].queue = [o] := by
    rw [show y.drives[d] = { s.drives[d] with media := .stopped, spinUp := none } from upd_get_same ..]
    exact hq
  let z : State := y.seekFailed d o .notReady
  have hfails : z.failWrite k = z.updSlot k (fun t =>
      { t with state := .resident, dirtySince := some s.now.ms, writeFailed := true, yields := 0, active := none }) := by
    unfold State.failWrite
    rw [if_pos (.inl hst)]
    exact State.updSlot_congr (Slot.writeFails_settled hsec hdirty _)
  have hone : (z.failWrite k).slot k = { s.slot k with
      state := .resident, dirtySince := some s.now.ms, writeFailed := true, yields := 0, active := none } := by
    rw [hfails]
    exact State.slot_updSlot_same hk
  obtain ⟨gen, evict, hwork⟩ : ∃ gen evict, o.work = .write k gen evict := by
    cases hw : o.work with
    | write j gen evict =>
      rw [hw] at hslot
      cases hslot
      exact ⟨gen, evict, rfl⟩
    | _ => rw [hw] at hwrite; cases hwrite
  have hafter : (z.failWrite k).afterWrite d k evict .failed = z.failWrite k :=
    State.afterWrite_failed (by rw [hfails]; exact hdrain) (by rw [hfails]; exact hflush) (by rw [hone])
      (by rw [hone]; exact hdirty) (by rw [hfails]; exact hwait) evict
  rw [State.spinUpEnds_notReady hr hc, State.opFailed_seeking hyq ho, hwork]
  dsimp only
  rw [hafter, hfails]
  unfold State.discardIfPending
  have hdrives : z.drives = upd s.drives d Drive.halted := by
    dsimp only [z, y, State.seekFailed, State.updDrive]
    rw [upd_upd]
    rfl
  refine (if_neg (ne_true_of_eq_false hpend)).trans ?_
  exact congrArg (fun ds => ({ z.updSlot k _ with drives := ds } : State)) hdrives

/-- The end of a drain with one slot left DIRTY, at the event in which its WRITE fails: the drive that has lost its operation is given its notice. -/
theorem State.OneDirty.schedule_halted {s u : State} {k : Nat} {key : Key} {d : DriveNo} (h : u.OneDirty k key)
    (hwait : u.NoSlotWaits) (hp : u.phase = .draining) (hd : u.drives = upd s.drives d Drive.halted)
    (hc : s.drives[d].current = true) (hrest : ∀ e : DriveNo, e ≠ d → s.drives[e].Resting) (hv : ∀ e : DriveNo, u.NoDrain e) :
    u.schedule = { u.drainEnd with drives := upd s.drives d (fun v => { v.halted with current := false }) } := by
  have hqueue : ∀ e : DriveNo, u.drives[e].queue = [] := fun e => by
    by_cases he : e = d
    · subst he; rw [hd, upd_get_same]; rfl
    · rw [hd, upd_get_ne _ _ (Ne.symm he)]; exact (hrest e he).1
  have hdrives : u.drainEnd.drives = upd s.drives d Drive.halted := by rw [h.drainEnd hwait]; exact hd
  rw [State.schedule_drains hp hqueue hv hwait]
  generalize u.drainEnd = e at hdrives ⊢
  rw [State.notices_one (d := d) fun f hf => by rw [hdrives, upd_get_ne _ _ (Ne.symm hf)]; exact (hrest f hf).steady,
    hdrives, upd_upd]
  refine congrArg (fun ds => ({ e with drives := ds } : State)) (upd_congr s.drives d ?_)
  exact Drive.halted_noticed hc ..

theorem exec_spinUpExpiry_due {s : State} {d : DriveNo} {t0 : Nat} (h : s.drives[d].spinUp = some t0) (pins : Pins) :
    exec (.spinUpExpiry d pins) s =
      .next (s.finish ((((s.bumped.advance (t0 + s.straps.spinUpMs)).sense pins).spinUpEnds d).schedule)) := by
  rw [exec_spinUpExpiry]
  unfold State.spinUpExpires
  rw [h]
  rfl

/-- Settles O7: a bus reset with nothing to write ends its drain at once; a drain whose one WRITE fails strands its slot. -/
theorem busResetOfCleanPart : Obligations.BusResetOfCleanPart := by
  refine ⟨fun s hidle h hvol => ?_, fun d pins k key o t0 s hphase hk hkey hd hst hdirty hsec hfree hwait hrest hvol hmounted hflush
    hpend hq hslot hwrite ho hc _ hspin _ hr => ?_⟩
  · have hend := State.drainEnd_rest h
    have hrecord := State.drainEnd_record s.resetRest_waits
    have hgeometry := State.drainEnd_geometry s.resetRest_waits
    have hslot := fun k => State.drainSlots_rest h (k := k)
    have hlen := State.drainSlots_rest_length h
    have hstranded := fun d k => State.drainSlots_rest_stranded h (d := d) (k := k)
    rw [exec_busReset_rest hidle h hvol]
    generalize s.resetRest.drainEnd = e at hend hrecord hgeometry ⊢
    generalize s.resetRest.drainSlots = y at hend hslot hlen hstranded hrecord hgeometry
    have hslots : e.slots = y.slots := by rw [hend]
    have hmem : e.mem = s.mem := by rw [hend]
    refine ⟨_, rfl, ?_, (congrArg List.length hslots).trans hlen, fun k hk => ?_, fun d => ⟨fun hs => ?_, fun hs => ?_⟩,
      State.attention_rewriteCopies _, fun a ha => ?_⟩
    · generalize s.eventMem e = m
      rw [hend]
      rfl
    · have hk' : (e.withMem (s.eventMem e)).rewriteCopies.slot k = if (s.slot k).state = .resident then (s.slot k).freed else s.slot k := by
        rw [← hslot k hk]
        unfold State.slot
        exact congrArg (·.getD k Slot.blank) hslots
      rw [hk']
      exact ⟨fun hr => by rw [if_pos hr]; exact ⟨rfl, rfl, rfl, rfl⟩, fun hr => if_neg hr⟩
    · obtain ⟨k, hk, hst, hon⟩ := hs
      have hkeeps : y.strandedSlots d ≠ [] := List.ne_nil_of_mem ((hstranded d k).mpr ⟨hk, hst, hon⟩)
      have hlost : s.volume d = .lost := by
        rcases h k hk with ⟨h1, -⟩ | ⟨h1, -⟩ | ⟨-, -, key, h3, h4⟩
        · rw [hst] at h1; cases h1
        · rw [hst] at h1; cases h1
        · unfold Slot.onDrive at hon
          rw [h3, Option.any_some, decide_eq_true_eq] at hon
          rw [← hon]; exact h4
      refine ⟨?_, (hgeometry d).trans (if_neg hkeeps)⟩
      rw [State.rewriteCopies_record, show (e.withMem (s.eventMem e)).records[d] = e.records[d] from rfl, hrecord, if_neg hkeeps,
        show s.resetRest.records = updAll s.records MountRecord.discardCancelled from rfl, updAll_get, if_pos rfl, ← hlost]
      rfl
    · have hnone : y.strandedSlots d = [] := by
        refine List.eq_nil_iff_forall_not_mem.mpr fun k hk => ?_
        obtain ⟨hlt, hst, hon⟩ := (hstranded d k).mp hk
        rw [hs k hlt hst] at hon
        cases hon
      refine ⟨?_, (hgeometry d).trans (if_pos hnone)⟩
      rw [State.rewriteCopies_record, show (e.withMem (s.eventMem e)).records[d] = e.records[d] from rfl, hrecord, if_pos hnone]
      exact if_neg nofun
    · rw [State.read_drained (by rw [hend]) ha, hmem]
  · let x : State := (s.bumped.advance (t0 + s.straps.spinUpMs)).sense pins
    have hnodrain : ∀ e : DriveNo, s.NoDrain e := fun e => by
      unfold State.NoDrain
      rcases hvol e with h | h | h | h <;> rw [h] <;> exact ⟨nofun, nofun⟩
    have hfails := State.spinUpEnds_failsWrite (s := x) hr hc hq hslot hwrite ho hk hst hdirty hsec hwait (hnodrain d) hflush hpend
    rw [exec_spinUpExpiry_due hspin, show ((s.bumped.advance (t0 + s.straps.spinUpMs)).sense pins) = x from rfl]
    generalize x.spinUpEnds d = u at hfails ⊢
    have hone : u.slot k = { s.slot k with
        state := .resident, dirtySince := some x.now.ms, writeFailed := true, yields := 0, active := none } := by
      rw [hfails]
      exact State.slot_updSlot_same (s := x) hk
    have hother : ∀ j, j ≠ k → u.slot j = s.slot j := fun j hj => by
      rw [hfails]
      exact State.slot_updSlot_ne (s := x) (Ne.symm hj)
    have hlen : u.slots.length = s.slots.length := by
      rw [hfails]
      exact List.length_modify ..
    have hdrive : u.drives = upd s.drives d Drive.halted := by rw [hfails]; rfl
    have hrecords : u.records = s.records := by rw [hfails]; rfl
    have hwaits : u.NoSlotWaits := by rw [hfails]; exact hwait
    have hleft : u.OneDirty k key :=
      { inForce := by rw [hlen]; exact hk
        keyed := by rw [hone]; exact hkey
        resident := by rw [hone]
        dirty := by rw [hone]; exact hdirty
        settled := by rw [hone]; exact hsec
        kept := by unfold State.volume; rw [hrecords, hd]; exact (hmounted ▸ nofun : s.volume d ≠ .lost)
        free := fun j hj hjk => by rw [hother j hjk]; exact (hfree j (hlen ▸ hj) hjk).1 }
    have hend := hleft.drainEnd hwaits
    have hrecord := hleft.drainEnd_record hwaits
    have hgeometry := hleft.drainEnd_geometry hwaits
    have hnotices := hleft.schedule_halted hwaits (by rw [hfails]; exact hphase) hdrive hc hrest
      (fun e => by unfold State.NoDrain State.volume; rw [hrecords]; exact hnodrain e)
    generalize u.drainEnd = e at hend hrecord hgeometry hnotices
    rw [State.finish_drained (by rw [hphase]; exact fun _ => nofun) (by rw [hnotices, hend])]
    generalize u.schedule = v at hnotices ⊢
    have hstraps : v.straps = s.straps := by rw [hnotices, hend, hfails]; rfl
    have hmem : v.mem = s.mem := by rw [hnotices, hend, hfails]; rfl
    have hvd : v.drives[d] = { s.drives[d].halted with current := false } := by rw [hnotices]; exact upd_get_same ..
    have hslot : ∀ j, v.slot j = (u.updSlot k (fun t =>
        { t with state := .stranded, dirtySince := none, yields := 0, active := none, pendingWrite := none })).slot j := fun j => by
      rw [hnotices, hend]
      rfl
    have hvrecord : ∀ f : DriveNo, v.records[f] = e.records[f] := fun f => by rw [hnotices]
    have hvgeometry : ∀ f : DriveNo, v.geometry[f] = e.geometry[f] := fun f => by rw [hnotices]
    have hread := fun a => State.read_drained (s := s) (u := v) hstraps (a := a)
    generalize s.eventMem v = m at hread ⊢
    refine ⟨_, rfl, by rw [hnotices, hend]; rfl, ?_, fun j hj => ?_, by rw [hnotices, hend, hfails]; rfl,
      by rw [hnotices, hend, hfails]; rfl, ?_, ?_, fun f hf => ⟨?_, ?_⟩, congrArg Drive.queue hvd, congrArg Drive.media hvd,
      congrArg Drive.current hvd, fun f hf => ?_, fun i => Vector.getElem_replicate .., rfl, fun r => Vector.getElem_replicate ..,
      fun a ha => by rw [hread a ha, hmem]⟩
    · refine (hslot k).trans ((State.slot_updSlot_same hleft.inForce).trans ?_)
      rw [hone]
    · exact (hslot j).trans ((State.slot_updSlot_ne (Ne.symm hj)).trans (hother j hj))
    · rw [State.rewriteCopies_record, show (v.withMem m).records = v.records from rfl, hvrecord, hrecord, if_pos hd.symm, if_pos rfl, hrecords]
    · rw [show ((v.withMem m).rewriteCopies).geometry = v.geometry from rfl, hvgeometry, hgeometry, if_pos hd.symm, hfails]
      rfl
    · rw [State.rewriteCopies_record, show (v.withMem m).records = v.records from rfl, hvrecord, hrecord,
        if_neg (hd ▸ hf : f ≠ key.drive)]
      exact if_neg nofun
    · rw [show ((v.withMem m).rewriteCopies).geometry = v.geometry from rfl, hvgeometry, hgeometry, if_neg (hd ▸ hf : f ≠ key.drive)]
    · rw [show ((v.withMem m).rewriteCopies).drives = v.drives from rfl, hnotices]
      exact upd_get_ne _ _ (Ne.symm hf)

end Sys2Proof.Machine
end
